-- ==== Sys2Proof/Word.lean ====
section
/-! DEFINITION. The word types of the BitFrameCodec (spec/00_scope.md R5-R7, spec/20_memory.md R29). -/

namespace Sys2Proof

/-- A byte; its bits are numbered 7 (most significant) down to 0 (R6). -/
abbrev Byte := BitVec 8

/-- A nibble, a value in 0..15 (R6, R7). -/
abbrev Nibble := BitVec 4

/-- A 64-bit unsigned length, count or buffer index (R18, R19, R25, R29). -/
abbrev Word64 := BitVec 64

/-- A bit string, first bit at the left (R5). -/
abbrev Bits := List Bool

end Sys2Proof
end

