-- ==== Sys2Proof/Syntax.lean ====
section
/-! DEFINITION. The syntax: dot/dash codes, the instructions of spec/opcode_table.json (one constructor a row), the encoded words of the table's three formats, and the names of the interface registers. -/

namespace Sys2Proof

/-- The two symbols of a code (spec/00_scope.md R8). -/
inductive Sym where
  /-- `.` -/
  | dot
  /-- `-` -/
  | dash
  deriving DecidableEq, Repr

/-- A dot/dash code, first symbol at the left; `[]` is the empty code ε (R8). -/
abbrev Code := List Sym

/-- A nibble symbol table: a total function from nibbles to codes (spec/40_symbol_table.md R64). -/
abbrev SymTab := Nibble → Code

/-- The rows of spec/opcode_table.json. The first two are the commands (R48), the next five the pattern
elements (R52, R53), the last sixteen the nibble codes (R64-R68). No row has an operand field (R47). -/
inductive Instr where
  | encode
  | decode
  | dot
  | dash
  | gapIntra
  | gapNibble
  | gapByte
  | nib0
  | nib1
  | nib2
  | nib3
  | nib4
  | nib5
  | nib6
  | nib7
  | nib8
  | nib9
  | nibA
  | nibB
  | nibC
  | nibD
  | nibE
  | nibF
  deriving DecidableEq, Repr

/-- The encoding layer a word belongs to: the "format" column of the opcode table (spec/30_encoding.md R46).
Words of different layers may have the same bits (DOT and NIB_0 are both `1`). -/
inductive Format where
  /-- The command word `CMD` (R47). -/
  | command
  /-- A pattern element (R52, R53). -/
  | element
  /-- A rendered SYMTAB entry (R69). -/
  | nibbleCode
  deriving DecidableEq, Repr

/-- A word of the opcode table: its layer and its bits, in the order the table's "encoding" column writes them. -/
structure TableWord where
  format : Format
  bits   : Bits
  deriving DecidableEq, Repr

/-- The names of the registers and buffers of spec/10_state.md R27 (the access summary). -/
inductive Port where
  | cmdOp
  | inBuf
  | inLen
  | status
  | outBuf
  | outLen
  | symtab
  | decCode
  | decOvf
  | decOnes
  | decZeros
  | decHv
  | decHeld
  | decOutcnt
  deriving DecidableEq, Repr

end Sys2Proof
end

