-- ==== Sys2Proof/WellFormed.lean ====
section
/-! DEFINITION. Well-formedness: of a symbol table (spec/40_symbol_table.md R65-R67), of an instruction under a table, and of an encoded word. -/

namespace Sys2Proof

/-- The nibble values 0x0 .. 0xF in increasing order. -/
def allNibbles : List Nibble := (List.range 16).map (BitVec.ofNat 4)

/-- R65: a code of the table has 1 to 4 symbols. -/
def Code.lengthOk (c : Code) : Bool := decide (1 ≤ c.length) && decide (c.length ≤ 4)

/-- R65 for every entry. -/
def SymTab.lengthsOk (t : SymTab) : Bool := allNibbles.all fun v => Code.lengthOk (t v)

/-- R66: the table is injective. -/
def SymTab.injectiveOk (t : SymTab) : Bool :=
  allNibbles.all fun v => allNibbles.all fun w => decide (t v = t w → v = w)

/-- The code of 0x0 that the source gives (R67). -/
def sourceCode0 : Code := [.dot]

/-- The code of 0xF that the source gives (R67). -/
def sourceCodeF : Code := [.dot, .dot, .dot, .dash]

/-- R67: the two entries the source gives. -/
def SymTab.sourceOk (t : SymTab) : Bool := decide (t 0x0#4 = sourceCode0) && decide (t 0xF#4 = sourceCodeF)

/-- An admissible table meets R65, R66 and R67 (R64 holds by its type: it is total). -/
def SymTab.admissible (t : SymTab) : Bool := SymTab.lengthsOk t && SymTab.injectiveOk t && SymTab.sourceOk t

/-- The nibble value a nibble-code row stands for; none for the other rows. -/
def Instr.nibble? : Instr → Option Nibble
  | .encode => none
  | .decode => none
  | .dot => none
  | .dash => none
  | .gapIntra => none
  | .gapNibble => none
  | .gapByte => none
  | .nib0 => some 0x0#4
  | .nib1 => some 0x1#4
  | .nib2 => some 0x2#4
  | .nib3 => some 0x3#4
  | .nib4 => some 0x4#4
  | .nib5 => some 0x5#4
  | .nib6 => some 0x6#4
  | .nib7 => some 0x7#4
  | .nib8 => some 0x8#4
  | .nib9 => some 0x9#4
  | .nibA => some 0xA#4
  | .nibB => some 0xB#4
  | .nibC => some 0xC#4
  | .nibD => some 0xD#4
  | .nibE => some 0xE#4
  | .nibF => some 0xF#4

/-- An instruction is well-formed under a table when the code it stands for (if any) has 1 to 4 symbols (R65).
Commands and elements have no operands (R47, R52, R53), so they always are. -/
def Instr.wf (t : SymTab) (i : Instr) : Bool :=
  match i.nibble? with
  | none => true
  | some v => Code.lengthOk (t v)

/-- A well-formed word of its layer: a command has exactly one bit (R47); an element is a non-empty run of
equal bits (R52, R53); a rendered code has 1 to 15 bits and starts and ends with `1` (R69, R70). -/
def TableWord.wf (w : TableWord) : Bool :=
  match w.format with
  | .command => decide (w.bits.length = 1)
  | .element =>
    match w.bits with
    | [] => false
    | b :: bs => bs.all fun c => decide (c = b)
  | .nibbleCode =>
    decide (w.bits.length ≤ 15) && decide (w.bits.head? = some true) && decide (w.bits.getLast? = some true)

end Sys2Proof
end

