-- ==== Sys2Proof/Config.lean ====
section
/-! DEFINITION. The parameters of the model (spec/00_scope.md R4) and its free values. Each opaque constant has no body: nothing in Lean can learn its value, so a claim about the machine holds for every value the spec admits. -/

namespace Sys2Proof

/-- The parameters the two commands read (R4): the symbol table and the largest ENCODE input. -/
structure Params where
  symtab   : SymTab
  maxInLen : Nat

/-- The values R4 admits: a table that meets R64-R67 and `MAX_IN_LEN <= 2^58` (R85, D12). -/
def Params.admissible (p : Params) : Prop := SymTab.admissible p.symtab = true ∧ p.maxInLen ≤ 2 ^ 58

/-- `DEFAULT_SYMTAB` (spec/40_symbol_table.md R68): the first 16 codes in shortlex order. A candidate from
general knowledge (G1), used only for the vectors the spec marks table-dependent. -/
def defaultSymtab : SymTab := fun v =>
  match v.toNat with
  | 0x0 => [.dot]
  | 0x1 => [.dash]
  | 0x2 => [.dot, .dot]
  | 0x3 => [.dot, .dash]
  | 0x4 => [.dash, .dot]
  | 0x5 => [.dash, .dash]
  | 0x6 => [.dot, .dot, .dot]
  | 0x7 => [.dot, .dot, .dash]
  | 0x8 => [.dot, .dash, .dot]
  | 0x9 => [.dot, .dash, .dash]
  | 0xA => [.dash, .dot, .dot]
  | 0xB => [.dash, .dot, .dash]
  | 0xC => [.dash, .dash, .dot]
  | 0xD => [.dash, .dash, .dash]
  | 0xE => [.dot, .dot, .dot, .dot]
  | _   => [.dot, .dot, .dot, .dash]

/-- Puts the two entries the source gives (R67) into a table. -/
def withSource (f : SymTab) : SymTab := fun v =>
  if v = 0x0#4 then sourceCode0 else if v = 0xF#4 then sourceCodeF else f v

/-- The 14 entries the source does not give (R68, D5, U7). Free (log 7). -/
opaque Config.symtabDraw : Nibble → List Sym

/-- Any natural number: how far `MAX_IN_LEN` lies below `2^58` (R4, R85). Free (log 8). -/
opaque Config.maxInLenSlack : Nat

/-- The machine's table: the drawn one where it is admissible; a draw that R65 or R66 rules out is replaced by
`DEFAULT_SYMTAB`. Every admissible table is the value for some draw, and every value is admissible (log 7). -/
def Config.symtab : SymTab :=
  withSource (if SymTab.admissible (withSource Config.symtabDraw) then Config.symtabDraw else defaultSymtab)

/-- The machine's `MAX_IN_LEN`: any value from 0 to `2^58` (R4, log 8). -/
def Config.maxInLen : Nat := 2 ^ 58 - Config.maxInLenSlack

/-- The machine's parameters. -/
def Config.params : Params := { symtab := Config.symtab, maxInLen := Config.maxInLen }

/-- Any natural number: how many instances there are beyond the first (R4, R117). Free (log 14). -/
opaque Config.extraInstances : Nat

/-- `INSTANCES >= 1` (R4, D18). -/
def Config.instances : Nat := 1 + Config.extraInstances

/-- `PLATFORM_MAP` (spec/20_memory.md R41, D24): where a host places the registers and buffers. No rule of the
spec reads it, and no definition of the model does (log 14). -/
opaque Config.platformMap : Port → Nat

/-- The byte that `IN` holds at an index nothing has written since a reset (R18, R28, U11): any value, the same
at every read of one draw, and of each instance its own (R45). Arguments: `State.instanceNo`, the draw
`State.inDraw`, the index. Free (log 5). -/
opaque Config.freeInByte : Nat → Nat → Nat → Byte

/-- The byte that `OUT` holds at an index that is no part of a result (R19, R28, R128, U5): any value, of each
instance its own (R45). Arguments: `State.instanceNo`, the draw `State.outDraw`, the index. Free (log 5, log 6). -/
opaque Config.freeOutByte : Nat → Nat → Nat → Byte

end Sys2Proof
end

