-- ==== Sys2Proof/Decode.lean ====
section
/-! DEFINITION. The encodings (spec/30_encoding.md, spec/40_symbol_table.md): elements, gaps, Render and INV, the decoder of the opcode table's words and the encoder, the header, and the packing of bits into bytes. -/

namespace Sys2Proof

/-- `GAP_INTRA`, the zero bits between symbols of one code (R3). -/
def gapIntraWidth : Nat := 1
/-- `GAP_NIBBLE`, the zero bits between the two codes of a byte (R3). -/
def gapNibbleWidth : Nat := 3
/-- `GAP_BYTE`, the zero bits between consecutive bytes (R3). -/
def gapByteWidth : Nat := 7
/-- `HDR_BYTES` (R3). -/
def hdrBytes : Nat := 8

/-- `G1` (R53). -/
def gapIntraBits : Bits := List.replicate gapIntraWidth false
/-- `G3` (R53). -/
def gapNibbleBits : Bits := List.replicate gapNibbleWidth false
/-- `G7` (R53). -/
def gapByteBits : Bits := List.replicate gapByteWidth false

/-- `E(s)`, the element of a symbol (R52). -/
def symBits : Sym → Bits
  | .dot => [true]
  | .dash => [true, true, true]

/-- `Render(c)` (R69): the elements of the code's symbols, separated by `G1`; ε for the empty code. -/
def render : Code → Bits
  | [] => []
  | [s] => symBits s
  | s :: s' :: c => symBits s ++ gapIntraBits ++ render (s' :: c)

/-- `INV(c)` (R71): the nibble whose code is `c`. -/
def inv (t : SymTab) (c : Code) : Option Nibble := allNibbles.find? fun v => decide (t v = c)

/-- The command of an `OP` value (R48). -/
def decodeOp (op : BitVec 1) : Instr := if op = 1#1 then .decode else .encode

/-- The nibble-code row of a nibble value (opcode table rows NIB_0 .. NIB_F). -/
def nibInstr (v : Nibble) : Instr :=
  match v.toNat with
  | 0x0 => .nib0
  | 0x1 => .nib1
  | 0x2 => .nib2
  | 0x3 => .nib3
  | 0x4 => .nib4
  | 0x5 => .nib5
  | 0x6 => .nib6
  | 0x7 => .nib7
  | 0x8 => .nib8
  | 0x9 => .nib9
  | 0xA => .nibA
  | 0xB => .nibB
  | 0xC => .nibC
  | 0xD => .nibD
  | 0xE => .nibE
  | _   => .nibF

/-- Why a word of the table's layers is no instruction. -/
inductive DecodeError where
  /-- A command word that has not exactly one bit (R47). -/
  | commandWidth
  /-- A bit string that is none of the five pattern elements (R52, R53). -/
  | unknownElement
  /-- A bit string that renders no entry of the table: an unassigned code (R58). -/
  | unassignedCode
  deriving DecidableEq, Repr

/-- Decodes a word of the command layer (R47, R48). Both values of the one bit are commands (R49). -/
def decodeCommandWord : Bits → Except DecodeError Instr
  | [op] => .ok (decodeOp (BitVec.ofBool op))
  | _ => .error .commandWidth

/-- Decodes a word of the element layer (R52, R53). -/
def decodeElementWord (w : Bits) : Except DecodeError Instr :=
  if w = symBits .dot then .ok .dot
  else if w = symBits .dash then .ok .dash
  else if w = gapIntraBits then .ok .gapIntra
  else if w = gapNibbleBits then .ok .gapNibble
  else if w = gapByteBits then .ok .gapByte
  else .error .unknownElement

/-- Decodes a word of the nibble-code layer: the entry that renders to these bits (R64, R69). -/
def decodeNibbleWord (t : SymTab) (w : Bits) : Except DecodeError Instr :=
  match allNibbles.find? fun v => decide (render (t v) = w) with
  | some v => .ok (nibInstr v)
  | none => .error .unassignedCode

/-- The decoder under a table `t`: total, rejecting by name. -/
def decodeIn (t : SymTab) (w : TableWord) : Except DecodeError Instr :=
  match w.format with
  | .command => decodeCommandWord w.bits
  | .element => decodeElementWord w.bits
  | .nibbleCode => decodeNibbleWord t w.bits

/-- The encoder under a table `t`: the opcode table's encoding of each row. -/
def encodeIn (t : SymTab) : Instr → TableWord
  | .encode => { format := .command, bits := [false] }
  | .decode => { format := .command, bits := [true] }
  | .dot => { format := .element, bits := symBits .dot }
  | .dash => { format := .element, bits := symBits .dash }
  | .gapIntra => { format := .element, bits := gapIntraBits }
  | .gapNibble => { format := .element, bits := gapNibbleBits }
  | .gapByte => { format := .element, bits := gapByteBits }
  | .nib0 => { format := .nibbleCode, bits := render (t 0x0#4) }
  | .nib1 => { format := .nibbleCode, bits := render (t 0x1#4) }
  | .nib2 => { format := .nibbleCode, bits := render (t 0x2#4) }
  | .nib3 => { format := .nibbleCode, bits := render (t 0x3#4) }
  | .nib4 => { format := .nibbleCode, bits := render (t 0x4#4) }
  | .nib5 => { format := .nibbleCode, bits := render (t 0x5#4) }
  | .nib6 => { format := .nibbleCode, bits := render (t 0x6#4) }
  | .nib7 => { format := .nibbleCode, bits := render (t 0x7#4) }
  | .nib8 => { format := .nibbleCode, bits := render (t 0x8#4) }
  | .nib9 => { format := .nibbleCode, bits := render (t 0x9#4) }
  | .nibA => { format := .nibbleCode, bits := render (t 0xA#4) }
  | .nibB => { format := .nibbleCode, bits := render (t 0xB#4) }
  | .nibC => { format := .nibbleCode, bits := render (t 0xC#4) }
  | .nibD => { format := .nibbleCode, bits := render (t 0xD#4) }
  | .nibE => { format := .nibbleCode, bits := render (t 0xE#4) }
  | .nibF => { format := .nibbleCode, bits := render (t 0xF#4) }

/-- The machine's decoder. -/
def decode (w : TableWord) : Except DecodeError Instr := decodeIn Config.symtab w

/-- The machine's encoder. -/
def encode (i : Instr) : TableWord := encodeIn Config.symtab i

/-- The word that a host writes to `CMD`, as numbered by the opcode table: bit 0 is `CMD.OP` (R47). A word with
a bit above bit 0 is no command word (log 16). Elements and nibble codes are not command words: they are read by
the scanner (log 2). -/
def decodeTableWord (nbits w : Nat) : Option Instr :=
  if nbits = 0 then none
  else if w < 2 then (decode { format := .command, bits := [w.testBit 0] }).toOption
  else none

/-- `ceil(x/8)` (R7). -/
def ceil8 (x : Nat) : Nat := (x + 7) / 8

/-- Byte `k` of the 64-bit count `n`: `n[8k+7 : 8k]` (R34). -/
def headerByte (n k : Nat) : Byte := (BitVec.ofNat 64 n).extractLsb' (8 * k) 8

/-- The 8-byte little-endian header of a count (R34, R78). -/
def headerBytes (n : Nat) : List Byte := (List.range hdrBytes).map (headerByte n)

/-- The unsigned little-endian value of a byte string: the sum over `k` of `F[k] << 8k` (R34, R88). -/
def littleEndian : List Byte → Nat
  | [] => 0
  | b :: bs => b.toNat + 256 * littleEndian bs

/-- Payload byte `q` of a bit string: the sum of `P[8q+t] << (7-t)` over the `t` with `8q+t < |P|` (R79). -/
def packByte (P : Bits) (q : Nat) : Byte :=
  BitVec.ofNat 8 ((List.range 8).map fun t => if P.getD (8 * q + t) false then 1 <<< (7 - t) else 0).sum

/-- The payload of a bit string, MSB first, zero-padded (R35, R36). -/
def packBits (P : Bits) : List Byte := (List.range (ceil8 P.length)).map (packByte P)

/-- Bit `j` of a payload lies in a byte at position `7 - (j mod 8)` (R35). -/
def payloadBit (b : Byte) (j : Nat) : Bool := b.getLsbD (7 - j % 8)

/-- Bytes expanded into a bit string, most significant bit first (R6, R37). -/
def expandBytes (bs : List Byte) : Bits := bs.flatMap fun b => (List.range 8).map (payloadBit b)

/-- The framed byte stream of a bit string: header, then payload (R33, R50). -/
def frameBytes (P : Bits) : List Byte := headerBytes P.length ++ packBits P

/-- The codes of exactly `k` symbols (30_encoding.md R58 counts them). -/
def codesOfLength : Nat → List Code
  | 0 => [[]]
  | k + 1 => (codesOfLength k).flatMap fun c => [Sym.dot :: c, Sym.dash :: c]

/-- The codes of 1 to 4 symbols (R58, R72). -/
def codesUpTo4 : List Code := codesOfLength 1 ++ codesOfLength 2 ++ codesOfLength 3 ++ codesOfLength 4

/-- The high nibble `b[7:4]` (R6, R74). -/
def hiNibble (b : Byte) : Nibble := b.extractLsb' 4 4

/-- The low nibble `b[3:0]` (R6, R74). -/
def loNibble (b : Byte) : Nibble := b.extractLsb' 0 4

/-- The byte of a held high nibble and a low nibble: `DEC_HELD * 16 + n` (R51, R96). -/
def byteOfNibbles (hi lo : Nibble) : Byte := BitVec.ofNat 8 (hi.toNat * 16 + lo.toNat)

end Sys2Proof
end

