-- ==== Sys2Proof/Machine/State.lean ====
section
/-! DEFINITION. The architectural state of one codec instance (spec/10_state.md R11-R28), its reset value, and the reasons a step can stop. -/

namespace Sys2Proof.Machine

/-- Why the machine stops with a fault. -/
inductive Fault where
  /-- A read of `IN` at an index outside `0 .. IN_LEN-1`, which R29 says is no address of the space. Raised by
  `memRead` only. Safe: R31 says no command makes such a read, and the obligation NoStepFaults says none does. -/
  | inIndexOutOfRange
  deriving DecidableEq, Repr

/-- Why the machine refuses an instruction. -/
inductive Refusal where
  /-- An instruction that the model gives no meaning yet. Raised by no arm of `exec`. Safe. -/
  | notModelled (mnemonic : String)
  /-- An ENCODE with `IN_LEN > MAX_IN_LEN` (R85). Raised by `execEncode`. Safe: the spec refuses it too. -/
  | inLenBeyondMax
  deriving DecidableEq, Repr

/-- The bytes of one address space (R29): address and byte, addresses strictly rising. An unlisted index holds
no value of its own: what is read there is a free value (log 5, log 6). -/
abbrev Memory := List Host.Cell

/-- The state of one codec instance (R11). `SYMTAB` and `MAX_IN_LEN` are parameters and stand in Config. -/
structure State where
  /-- A write of `CMD.OP` that has not run yet (R15, R28: "no command pending"). -/
  cmdPending : Bool
  /-- `CMD.OP` (R15). -/
  cmdOp      : BitVec 1
  /-- `IN` (R18). -/
  inBuf      : Memory
  /-- `IN_LEN` (R18). -/
  inLen      : Word64
  /-- `STATUS.RESULT` (R17). -/
  status     : BitVec 1
  /-- `OUT` (R19). -/
  outBuf     : Memory
  /-- `OUT_LEN` (R19). -/
  outLen     : Word64
  /-- `DEC_CODE` (R21): at most 4 symbols, an invariant of the machine. -/
  decCode    : Code
  /-- `DEC_OVF` (R21). -/
  decOvf     : Bool
  /-- `DEC_ONES` (R22): values 0..4. -/
  decOnes    : Fin 5
  /-- `DEC_ZEROS` (R23): values 0..3. -/
  decZeros   : Fin 4
  /-- `DEC_HV` (R24). -/
  decHv      : Bool
  /-- `DEC_HELD` (R24). -/
  decHeld    : Nibble
  /-- `DEC_OUTCNT` (R25). -/
  decOutcnt  : Word64
  /-- The model's own: which draw of the unspecified bytes of `IN` this is (log 5). -/
  inDraw     : Nat
  /-- The model's own: which draw of the unspecified bytes of `OUT` this is (log 5, log 6). -/
  outDraw    : Nat
  /-- The model's own: which instance's unspecified bytes these are (log 5). Nothing but the free bytes reads it:
  instances have no identifiers the block can see (R117). -/
  instanceNo : Nat
  deriving DecidableEq, Repr

/-- The machine right after reset (R28, R120). `CMD.OP`, the two draws and the instance's number are the model's choice
(log 4, log 5). -/
def State.reset : State where
  cmdPending := false
  cmdOp      := 0#1
  inBuf      := []
  inLen      := 0#64
  status     := 0#1
  outBuf     := []
  outLen     := 0#64
  decCode    := []
  decOvf     := false
  decOnes    := 0
  decZeros   := 0
  decHv      := false
  decHeld    := 0#4
  decOutcnt  := 0#64
  inDraw     := 0
  outDraw    := 0
  instanceNo := 0

end Sys2Proof.Machine
end

