-- ==== Sys2Proof/Machine/Flags.lean ====
section
/-! DEFINITION. The one flag of the block, `STATUS.RESULT` (spec/10_state.md R17, spec/60_exceptions.md R105). -/

namespace Sys2Proof.Machine

/-- The code for success (R17). -/
def resultOk : BitVec 1 := 0#1

/-- The code of `TruncatedHeader` (R17, R106). -/
def resultTruncatedHeader : BitVec 1 := 1#1

/-- Writes `STATUS.RESULT` (R17). -/
def setResult (r : BitVec 1) (s : State) : State := { s with status := r }

end Sys2Proof.Machine
end

