-- ==== Sys2Proof/Machine/Ops.lean ====
section
/-! DEFINITION. The named operations over memory and result registers (spec/20_memory.md), and the failure result, this block's trap entry (spec/60_exceptions.md R112). -/

namespace Sys2Proof.Machine

/-- The byte listed at an address; none where nothing is listed. -/
def Memory.read : Memory → Nat → Option Byte
  | [], _ => none
  | (k, v) :: m, a => if k = a then some v else Memory.read m a

/-- Lists byte `v` at address `a`, keeping the addresses strictly rising. -/
def Memory.write : Memory → Nat → Byte → Memory
  | [], a, v => [(a, v)]
  | (k, w) :: m, a, v =>
    if a < k then (a, v) :: (k, w) :: m
    else if a = k then (a, v) :: m
    else (k, w) :: Memory.write m a v

/-- The canonical form: addresses strictly rising. An unlisted address has no value, so no listed byte equals it. -/
def Memory.wf : Memory → Bool
  | [] => true
  | (k, _) :: m => (m.all fun c => decide (k < c.1)) && Memory.wf m

/-- The byte `IN` holds at an index: the listed one, or the free one of this draw (R18, log 5). -/
def inByte (s : State) (a : Nat) : Byte :=
  (Memory.read s.inBuf a).getD (Config.freeInByte s.instanceNo s.inDraw a)

/-- The byte `OUT` holds at an index: the listed one, or the free one of this draw (R19, log 5, log 6). -/
def outByte (s : State) (a : Nat) : Byte :=
  (Memory.read s.outBuf a).getD (Config.freeOutByte s.instanceNo s.outDraw a)

/-- `MemRead(a, 1)` (R9, R31): the byte `IN[a]`, for `0 <= a < IN_LEN`. -/
def memRead (s : State) (a : Nat) : Except Fault Byte :=
  if a < s.inLen.toNat then .ok (inByte s a) else .error .inIndexOutOfRange

/-- `MemWrite(a, 1, v)` (R9, R32): sets `OUT[a] <- v`. -/
def memWrite (a : Nat) (v : Byte) (s : State) : State := { s with outBuf := Memory.write s.outBuf a v }

/-- `MemRead` at `k` indices from `a` on, in increasing order. -/
def readBytes (s : State) : Nat → Nat → Except Fault (List Byte)
  | _, 0 => .ok []
  | a, k + 1 =>
    match memRead s a with
    | .error f => .error f
    | .ok b =>
      match readBytes s (a + 1) k with
      | .error f => .error f
      | .ok bs => .ok (b :: bs)

/-- `MemWrite` of the given bytes from index `a` on, each index once, in increasing order (R32). -/
def writeBytes : Nat → List Byte → State → State
  | _, [], s => s
  | a, v :: vs, s => writeBytes (a + 1) vs (memWrite a v s)

/-- A command begins with a new output buffer ("the codec allocates and returns a new buffer per call", R19): no
byte of it is specified until the command writes it (log 6). -/
def openOut (s : State) : State := { s with outBuf := [], outDraw := s.outDraw + 1 }

/-- The pending command is taken: it runs once (R15). -/
def takeCommand (s : State) : State := { s with cmdPending := false }

/-- A host write of `CMD.OP`, which starts a command (R15). -/
def writeCmd (op : BitVec 1) (s : State) : State := { s with cmdPending := true, cmdOp := op }

/-- `OUT_LEN <- n`. -/
def setOutLen (n : Word64) (s : State) : State := { s with outLen := n }

/-- The successful end of a command (R80, R81, R98). -/
def complete (n : Word64) (s : State) : State := setResult resultOk (setOutLen n s)

/-- `raise TruncatedHeader()` (R87, R112), taking this block's one exception: `STATUS.RESULT <- 1`,
`OUT_LEN <- 0`, no byte of `OUT` written (all are unspecified, being beyond `OUT_LEN`). Nothing is saved, no mode
changes, control goes nowhere. The block has no return from it and no nesting (R113): the next command runs as
after any result. -/
def raiseTruncatedHeader (s : State) : State := setResult resultTruncatedHeader (setOutLen 0#64 (openOut s))

end Sys2Proof.Machine
end

