-- ==== Sys2Proof/Machine/Operands.lean ====
section
/-! DEFINITION. The operand forms: what the two commands take from `IN` (spec/30_encoding.md R47, R51), and from which bits. -/

namespace Sys2Proof.Machine

/-- ENCODE's operand: `IN[0 .. IN_LEN-1]`, in increasing index order (R73, R75). -/
def encodeOperand (s : State) : Except Fault (List Byte) := readBytes s 0 s.inLen.toNat

/-- DECODE's header operand: `N`, the little-endian value of `IN[0 .. 7]` (R34, R88). -/
def headerCount (s : State) : Except Fault Nat :=
  match readBytes s 0 hdrBytes with
  | .error f => .error f
  | .ok bs => .ok (littleEndian bs)

/-- `A = 8 * (L - 8)`, the payload bits available (R89). -/
def availableBits (s : State) : Nat := 8 * (s.inLen.toNat - hdrBytes)

/-- `M = min(N, A)`, the bits that DECODE scans (R90, log 12). -/
def scanCount (n : Nat) (s : State) : Nat := min n (availableBits s)

/-- Payload bit `j`: bit `7 - (j mod 8)` of `IN[8 + (j div 8)]` (R35, R89). -/
def readPayloadBit (s : State) (j : Nat) : Except Fault Bool :=
  match memRead s (hdrBytes + j / 8) with
  | .error f => .error f
  | .ok b => .ok (payloadBit b j)

/-- The `k` payload bits from bit `j` on, in increasing order (R86's loop). -/
def readPayloadBits (s : State) : Nat → Nat → Except Fault Bits
  | _, 0 => .ok []
  | j, k + 1 =>
    match readPayloadBit s j with
    | .error f => .error f
    | .ok b =>
      match readPayloadBits s (j + 1) k with
      | .error f => .error f
      | .ok bs => .ok (b :: bs)

/-- The payload bit `j` as a plain value, for statements: what `readPayloadBit` answers inside `IN_LEN`. -/
def payloadBitOf (s : State) (j : Nat) : Bool := payloadBit (inByte s (hdrBytes + j / 8)) j

/-- The first `k` payload bits as a plain value (R89, R90). -/
def payloadBits (s : State) (k : Nat) : Bits := (List.range k).map (payloadBitOf s)

/-- The header count as a plain value: the sum over `k = 0..7` of `IN[k] << 8k` (R34, R88). -/
def headerValue (s : State) : Nat := littleEndian ((List.range hdrBytes).map (inByte s))

/-- The bytes `IN[0 .. IN_LEN-1]` as a plain value. -/
def inBytes (s : State) : List Byte := (List.range s.inLen.toNat).map (inByte s)

/-- The result bytes `OUT[0 .. OUT_LEN-1]` as a plain value (R16). -/
def outBytes (s : State) : List Byte := (List.range s.outLen.toNat).map (outByte s)

end Sys2Proof.Machine
end

