-- ==== Sys2Proof/Machine/Scanner.lean ====
section
/-! DEFINITION. The decoder's scanner, register by register (spec/42_decode.md R91-R97, spec/10_state.md R21-R25). `t` is the symbol table. -/

namespace Sys2Proof.Machine

/-- `ScanInit()` (R91). -/
def scanInit (s : State) : State :=
  { s with decCode := [], decOvf := false, decOnes := 0, decZeros := 0, decHv := false, decHeld := 0#4,
           decOutcnt := 0#64 }

/-- The start of every command, ENCODE or DECODE: it is taken (R15), and the scanner registers are re-initialised, so
that it starts from the same internal state whatever earlier commands did (R2, R16, R122, D21). The encoder datapath
has no registers (R20). What the command itself writes is its meaning's (R27; log 9). -/
def beginCommand (s : State) : State := scanInit (takeCommand s)

/-- `DEC_CODE <- DEC_CODE ++ x`. -/
def pushSym (x : Sym) (s : State) : State := { s with decCode := s.decCode ++ [x] }

/-- `DEC_OVF <- 1`. -/
def setOvf (s : State) : State := { s with decOvf := true }

/-- `Append(s)` (R95): at most 4 symbols are kept, a further one sets `DEC_OVF`. -/
def append (x : Sym) (s : State) : State := if s.decCode.length < 4 then pushSym x s else setOvf s

/-- `DEC_ONES <- r`. -/
def setOnes (r : Fin 5) (s : State) : State := { s with decOnes := r }

/-- `DEC_ZEROS <- z`. -/
def setZeros (z : Fin 4) (s : State) : State := { s with decZeros := z }

/-- `Classify()` (R94): a run of 1 is a dot, a run of 3 a dash, and 2 or 4 and more is skipped (R56). -/
def classify (s : State) : State :=
  match s.decOnes.val with
  | 1 => setOnes 0 (append .dot s)
  | 3 => setOnes 0 (append .dash s)
  | _ => setOnes 0 s

/-- The classification of a run of ones that has just ended; nothing where there was none (R93, R97). -/
def endOnes (s : State) : State := if s.decOnes = 0 then s else classify s

/-- What the current code resolves to: none when it overflowed, else `INV(DEC_CODE)` (R96). -/
def resolveCode (t : SymTab) (s : State) : Option Nibble :=
  match s.decOvf with
  | true => none
  | false => inv t s.decCode

/-- The code is cleared, found or not (R96, log 12). -/
def clearCode (s : State) : State := { s with decCode := [], decOvf := false }

/-- The high nibble is held (R96). -/
def holdNibble (n : Nibble) (s : State) : State := { s with decHeld := n, decHv := true }

/-- The slot resets (R96, R97). -/
def clearHeld (s : State) : State := { s with decHv := false, decHeld := 0#4 }

/-- `DEC_OUTCNT <- DEC_OUTCNT + 1` (R96; a 64-bit register, log 10). -/
def bumpOutcnt (s : State) : State := { s with decOutcnt := s.decOutcnt + 1#64 }

/-- The byte is emitted: `MemWrite(DEC_OUTCNT, 1, DEC_HELD * 16 + n)` (R96). -/
def emitByte (n : Nibble) (s : State) : State :=
  clearHeld (bumpOutcnt (memWrite s.decOutcnt.toNat (byteOfNibbles s.decHeld n) s))

/-- Pairs a resolved nibble: held as the high one, or completing a byte (R96). -/
def takeNibble (n : Nibble) (s : State) : State :=
  match s.decHv with
  | true => emitByte n s
  | false => holdNibble n s

/-- `Close()` (R96). A code that resolves to none is `UnrecognizedCode`, absorbed (R107). -/
def close (t : SymTab) (s : State) : State :=
  match resolveCode t s with
  | none => clearCode s
  | some n => takeNibble n (clearCode s)

/-- `StepOne()` (R92). -/
def stepOne (s : State) : State := setOnes ⟨min (s.decOnes.val + 1) 4, by omega⟩ (setZeros 0 s)

/-- `DEC_ZEROS <- min(DEC_ZEROS + 1, 3)` (R93). -/
def bumpZeros (s : State) : State := setZeros ⟨min (s.decZeros.val + 1) 3, by omega⟩ s

/-- The third consecutive zero closes the current code (R93). -/
def closeAtThird (t : SymTab) (s : State) : State := if s.decZeros.val = 2 then close t s else s

/-- `StepZero()` (R93). -/
def stepZero (t : SymTab) (s : State) : State := bumpZeros (closeAtThird t (endOnes s))

/-- One scanned bit (R86). -/
def scanBit (t : SymTab) (b : Bool) (s : State) : State := if b then stepOne s else stepZero t s

/-- The scanned bits in order (R86). -/
def scanBits (t : SymTab) : Bits → State → State
  | [], s => s
  | b :: bs, s => scanBits t bs (scanBit t b s)

/-- A lone held nibble at the end of the stream is `IncompleteTrailingNibble`, absorbed (R108): the slot is cleared
and nothing is written. -/
def dropLoneNibble (s : State) : State :=
  match s.decHv with
  | true => clearHeld s
  | false => s

/-- `EndOfStream()` (R97). -/
def endOfStream (t : SymTab) (s : State) : State := dropLoneNibble (close t (endOnes s))

end Sys2Proof.Machine
end

