-- ==== Sys2Proof/Machine/DecodeCommand.lean ====
section
/-! DEFINITION. DECODE (spec/42_decode.md R86-R98). -/

namespace Sys2Proof.Machine

/-- The end of a DECODE: `OUT_LEN <- DEC_OUTCNT`, `STATUS.RESULT <- 0` (R98). -/
def finishDecode (s : State) : State := complete s.decOutcnt s

/-- The scan of a bit string from `ScanInit` to completion (R86, R91-R98). -/
def decodeScan (t : SymTab) (bits : Bits) (s : State) : State :=
  finishDecode (endOfStream t (scanBits t bits (scanInit (openOut s))))

/-- DECODE with the table `t` (R86). The failing path changes nothing but the result (R112): the scanner registers have
been re-initialised when the command began (`beginCommand`, R122, log 9). -/
def decodeWith (t : SymTab) (s : State) : Host.Outcome State Fault Refusal :=
  if s.inLen.toNat < hdrBytes then .next (raiseTruncatedHeader s)
  else
    match headerCount s with
    | .error f => .fault f
    | .ok n =>
      match readPayloadBits s 0 (scanCount n s) with
      | .error f => .fault f
      | .ok bits => .next (decodeScan t bits s)

/-- DECODE (R86). -/
def execDecode (s : State) : Host.Outcome State Fault Refusal := decodeWith Config.symtab s

end Sys2Proof.Machine
end

