-- ==== Sys2Proof/Machine/Elements.lean ====
section
/-! DEFINITION. The meanings of the pattern elements (spec/30_encoding.md R52, R53, R56, R57): the scanner reads the element's bits. -/

namespace Sys2Proof.Machine

/-- DOT (R52, R56): the scanner reads `1`. -/
def execDot (s : State) : Host.Outcome State Fault Refusal :=
  .next (scanBits Config.symtab (symBits .dot) s)

/-- DASH (R52, R56): the scanner reads `111`. -/
def execDash (s : State) : Host.Outcome State Fault Refusal :=
  .next (scanBits Config.symtab (symBits .dash) s)

/-- GAP_INTRA (R53, R57): the scanner reads `0`. -/
def execGapIntra (s : State) : Host.Outcome State Fault Refusal :=
  .next (scanBits Config.symtab gapIntraBits s)

/-- GAP_NIBBLE (R53, R57): the scanner reads `000`. -/
def execGapNibble (s : State) : Host.Outcome State Fault Refusal :=
  .next (scanBits Config.symtab gapNibbleBits s)

/-- GAP_BYTE (R53, R57): the scanner reads `0000000`. -/
def execGapByte (s : State) : Host.Outcome State Fault Refusal :=
  .next (scanBits Config.symtab gapByteBits s)

end Sys2Proof.Machine
end

