-- ==== Sys2Proof/Machine/EncodeCommand.lean ====
section
/-! DEFINITION. ENCODE (spec/41_encode.md): the loop of R73, the grammar of 30_encoding.md R54, and the command. -/

namespace Sys2Proof.Machine

/-- The codes of one byte with `G3` between them (R54, R74). -/
def bytePattern (t : SymTab) (b : Byte) : Bits :=
  render (t (hiNibble b)) ++ gapNibbleBits ++ render (t (loNibble b))

/-- One turn of R73's loop: `G7` before every byte but the first, then the byte's two codes. -/
def encodeStep (t : SymTab) (i : Nat) (b : Byte) (P : Bits) : Bits :=
  (if 0 < i then P ++ gapByteBits else P) ++ bytePattern t b

/-- R73's loop from index `i` on, with `P` the bits so far. -/
def encodeLoop (t : SymTab) : Nat → List Byte → Bits → Bits
  | _, [], P => P
  | i, b :: bs, P => encodeLoop t (i + 1) bs (encodeStep t i b P)

/-- The bit-pattern grammar (R54). -/
def pattern (t : SymTab) : List Byte → Bits
  | [] => []
  | [b] => bytePattern t b
  | b :: b' :: bs => bytePattern t b ++ gapByteBits ++ pattern t (b' :: bs)

/-- Writes the framed stream of `P`: header, payload, `OUT_LEN` and `STATUS` (R77-R81). -/
def writeFrame (P : Bits) (s : State) : State :=
  complete (BitVec.ofNat 64 (hdrBytes + ceil8 P.length)) (writeBytes 0 (frameBytes P) (openOut s))

/-- ENCODE with parameters `p` (R73). The refusal is R85's. It writes no scanner register itself (R27): they have been
re-initialised when the command began (`beginCommand`, R122, log 9). -/
def encodeWith (p : Params) (s : State) : Host.Outcome State Fault Refusal :=
  if p.maxInLen < s.inLen.toNat then .refused .inLenBeyondMax
  else
    match encodeOperand s with
    | .error f => .fault f
    | .ok bs => .next (writeFrame (encodeLoop p.symtab 0 bs []) s)

/-- ENCODE (R73). -/
def execEncode (s : State) : Host.Outcome State Fault Refusal := encodeWith Config.params s

end Sys2Proof.Machine
end

