-- ==== Sys2Proof/Machine/Nibbles.lean ====
section
/-! DEFINITION. The meanings of the nibble codes (spec/40_symbol_table.md R64-R69): the scanner reads `Render(SYMTAB[v])`. -/

namespace Sys2Proof.Machine

/-- The scanner reads the rendered code of a nibble (R69). -/
def scanNibble (v : Nibble) (s : State) : State := scanBits Config.symtab (render (Config.symtab v)) s

/-- NIB_0 (R67, R69). -/
def execNib0 (s : State) : Host.Outcome State Fault Refusal := .next (scanNibble 0x0#4 s)

/-- NIB_1 (R68, R69). -/
def execNib1 (s : State) : Host.Outcome State Fault Refusal := .next (scanNibble 0x1#4 s)

/-- NIB_2 (R68, R69). -/
def execNib2 (s : State) : Host.Outcome State Fault Refusal := .next (scanNibble 0x2#4 s)

/-- NIB_3 (R68, R69). -/
def execNib3 (s : State) : Host.Outcome State Fault Refusal := .next (scanNibble 0x3#4 s)

/-- NIB_4 (R68, R69). -/
def execNib4 (s : State) : Host.Outcome State Fault Refusal := .next (scanNibble 0x4#4 s)

/-- NIB_5 (R68, R69). -/
def execNib5 (s : State) : Host.Outcome State Fault Refusal := .next (scanNibble 0x5#4 s)

/-- NIB_6 (R68, R69). -/
def execNib6 (s : State) : Host.Outcome State Fault Refusal := .next (scanNibble 0x6#4 s)

/-- NIB_7 (R68, R69). -/
def execNib7 (s : State) : Host.Outcome State Fault Refusal := .next (scanNibble 0x7#4 s)

/-- NIB_8 (R68, R69). -/
def execNib8 (s : State) : Host.Outcome State Fault Refusal := .next (scanNibble 0x8#4 s)

/-- NIB_9 (R68, R69). -/
def execNib9 (s : State) : Host.Outcome State Fault Refusal := .next (scanNibble 0x9#4 s)

/-- NIB_A (R68, R69). -/
def execNibA (s : State) : Host.Outcome State Fault Refusal := .next (scanNibble 0xA#4 s)

/-- NIB_B (R68, R69). -/
def execNibB (s : State) : Host.Outcome State Fault Refusal := .next (scanNibble 0xB#4 s)

/-- NIB_C (R68, R69). -/
def execNibC (s : State) : Host.Outcome State Fault Refusal := .next (scanNibble 0xC#4 s)

/-- NIB_D (R68, R69). -/
def execNibD (s : State) : Host.Outcome State Fault Refusal := .next (scanNibble 0xD#4 s)

/-- NIB_E (R68, R69). -/
def execNibE (s : State) : Host.Outcome State Fault Refusal := .next (scanNibble 0xE#4 s)

/-- NIB_F (R67, R69). -/
def execNibF (s : State) : Host.Outcome State Fault Refusal := .next (scanNibble 0xF#4 s)

end Sys2Proof.Machine
end

