-- ==== Sys2Proof/Machine/Step.lean ====
section
/-! DEFINITION. One step of the block: the pending command runs as one atomic transaction (spec/00_scope.md R10, spec/10_state.md R14, R15); an idle instance keeps its state (spec/60_exceptions.md R119). -/

namespace Sys2Proof.Machine

/-- One step. The block fetches no instruction (R14): the command is the one the host wrote to `CMD` (R48), and it runs
from the state of its start (R16, R122). -/
def step (s : State) : Host.Outcome State Fault Refusal :=
  if s.cmdPending then exec (decodeOp s.cmdOp) (beginCommand s) else .next s

/-- The host writes the command word `w` to `CMD`, the only way an instruction comes to run (R14, R15, log 3).
A word with a bit above `CMD.OP` is no command word and starts nothing (log 16). -/
def State.withFetchWord (s : State) (nbits w : Nat) : State :=
  if nbits = 0 then s else if w < 2 then writeCmd (BitVec.ofNat 1 w) s else s

end Sys2Proof.Machine
end

