-- ==== Sys2Proof/Machine/ClosedForm.lean ====
section
/-! DEFINITION. The run-based closed form of DECODE (spec/42_decode.md R99), "the form to prove against", and the readings of runs (spec/30_encoding.md R56, R57). No step calls it: statements hold the scanner against it. -/

namespace Sys2Proof.Machine

/-- The maximal runs of a bit string, each as its bit and its length (R99). -/
def runs : Bits → List (Bool × Nat)
  | [] => []
  | b :: bs =>
    match runs bs with
    | [] => [(b, 1)]
    | (c, k) :: rs => if b = c then (c, k + 1) :: rs else (b, 1) :: (c, k) :: rs

/-- The current code after a maximal run of `r` ones (R56). -/
def readOnes (r : Nat) (code : Code) : Code :=
  if r = 1 then code ++ [.dot] else if r = 3 then code ++ [.dash] else code

/-- R99's loop over the runs: the results of the lookups, in order, with the one at the end of the stream. -/
def lookups (t : SymTab) : List (Bool × Nat) → Code → List (Option Nibble)
  | [], code => [inv t code]
  | (true, r) :: rs, code => lookups t rs (readOnes r code)
  | (false, z) :: rs, code => if 3 ≤ z then inv t code :: lookups t rs [] else lookups t rs code

/-- Nibbles paired in order, a last odd one dropped (R99, R100). -/
def pairNibbles : List Nibble → List Byte
  | hi :: lo :: vs => byteOfNibbles hi lo :: pairNibbles vs
  | [_] => []
  | [] => []

/-- The recognized nibbles of a stream, in order (R99). -/
def recognized (t : SymTab) (bits : Bits) : List Nibble := (lookups t (runs bits) []).filterMap id

/-- DECODE's output for a scanned bit string (R99). -/
def closedForm (t : SymTab) (bits : Bits) : List Byte := pairNibbles (recognized t bits)

end Sys2Proof.Machine
end

