-- ==== Sys2Proof/Machine/HostPort.lean ====
section
/-! DEFINITION. The host interface (spec/10_state.md R27, spec/70_reset_and_hazards.md R120, R123-R128, spec/30_encoding.md R61): what the host can read and write, and reset. Host actions fall between steps, never inside one (R125). -/

namespace Sys2Proof.Machine

/-- "host read" of R27. -/
def hostReadable : Port → Bool
  | .cmdOp => false
  | .inBuf => true
  | .inLen => true
  | .status => true
  | .outBuf => true
  | .outLen => true
  | .symtab => false
  | .decCode => false
  | .decOvf => false
  | .decOnes => false
  | .decZeros => false
  | .decHv => false
  | .decHeld => false
  | .decOutcnt => false

/-- "host write" of R27. -/
def hostWritable : Port → Bool
  | .cmdOp => true
  | .inBuf => true
  | .inLen => true
  | .status => false
  | .outBuf => false
  | .outLen => false
  | .symtab => false
  | .decCode => false
  | .decOvf => false
  | .decOnes => false
  | .decZeros => false
  | .decHv => false
  | .decHeld => false
  | .decOutcnt => false

/-- A host read of a register: its value where R27 lets the host read it. The two buffers are read by
`hostReadIn` and `hostReadOut`. -/
def hostRead (r : Port) (s : State) : Option Nat :=
  match r with
  | .inLen => some s.inLen.toNat
  | .status => some s.status.toNat
  | .outLen => some s.outLen.toNat
  | .cmdOp => none
  | .inBuf => none
  | .outBuf => none
  | .symtab => none
  | .decCode => none
  | .decOvf => none
  | .decOnes => none
  | .decZeros => none
  | .decHv => none
  | .decHeld => none
  | .decOutcnt => none

/-- A host read of `IN[a]` (R27): a byte of the input below `IN_LEN`. At and above it R29 gives the space no index, and
the read answers any value (log 18). -/
def hostReadIn (s : State) (a : Word64) : Byte :=
  if a < s.inLen then inByte s a.toNat else Config.freeInByte s.instanceNo s.inDraw a.toNat

/-- A host read of `OUT[a]`: a byte of the result below `OUT_LEN`, any value above (R19, R128, log 6). -/
def hostReadOut (s : State) (a : Word64) : Byte :=
  if a < s.outLen then outByte s a.toNat else Config.freeOutByte s.instanceNo s.outDraw a.toNat

/-- A host write of `IN[a]` (R18, R27). The byte is kept also above `IN_LEN`, which the host sets after it (R123,
log 18). -/
def hostWriteIn (a : Nat) (v : Byte) (s : State) : State := { s with inBuf := Memory.write s.inBuf a v }

/-- A host write of `IN_LEN` (R18, R27). -/
def hostSetInLen (n : Word64) (s : State) : State := { s with inLen := n }

/-- Host writes of consecutive bytes of `IN` from index `a` on. -/
def hostWriteBytes : Nat → List Byte → State → State
  | _, [], s => s
  | a, v :: vs, s => hostWriteBytes (a + 1) vs (hostWriteIn a v s)

/-- The host places the input bytes and sets `IN_LEN` (R123, items 1 and 2). -/
def hostLoad (bs : List Byte) (s : State) : State :=
  hostSetInLen (BitVec.ofNat 64 bs.length) (hostWriteBytes 0 bs s)

/-- `IN <- OUT` (R61, R127): the previous result is copied into `IN` and `IN_LEN`. -/
def hostCopyOutToIn (s : State) : State := hostSetInLen s.outLen (hostWriteBytes 0 (outBytes s) s)

/-- Reset (R28, R120): the reset state, with the contents of `IN` and `OUT` unspecified anew (log 5). -/
def hostReset (s : State) : State :=
  { State.reset with inDraw := s.inDraw + 1, outDraw := s.outDraw + 1, instanceNo := s.instanceNo }

/-- What a host can do to an instance: the writes R27 allows, the copy of R61, and reset. -/
inductive HostAction where
  /-- Writes one byte of `IN`. -/
  | writeIn (a : Word64) (v : Byte)
  /-- Writes `IN_LEN`. -/
  | setInLen (n : Word64)
  /-- `IN <- OUT`. -/
  | copyOutToIn
  /-- Writes `CMD.OP`: the command runs (R15). -/
  | issue (op : BitVec 1)
  /-- Resets the block. -/
  | reset
  deriving DecidableEq, Repr

/-- A host action, with the transaction it starts (R10, R15). -/
def hostAct (a : HostAction) (s : State) : Host.Outcome State Fault Refusal :=
  match a with
  | .writeIn i v => .next (hostWriteIn i.toNat v s)
  | .setInLen n => .next (hostSetInLen n s)
  | .copyOutToIn => .next (hostCopyOutToIn s)
  | .issue op => step (writeCmd op s)
  | .reset => .next (hostReset s)

/-- A host program: a sequence of actions (R61). -/
def runHost : List HostAction → State → Host.Outcome State Fault Refusal
  | [], s => .next s
  | a :: as, s =>
    match hostAct a s with
    | .next t => runHost as t
    | .fault f => .fault f
    | .refused r => .refused r

/-- The command `ENCODE [bytes]` or `DECODE [bytes]` of the assembler syntax (R61) as host actions. -/
def commandActions (op : BitVec 1) (bs : List Byte) : List HostAction :=
  (bs.zipIdx.map fun c => HostAction.writeIn (BitVec.ofNat 64 c.2) c.1) ++
    [.setInLen (BitVec.ofNat 64 bs.length), .issue op]

end Sys2Proof.Machine
end

