-- ==== Sys2Proof/Machine/Notation.lean ====
section
/-! DEFINITION. The spec's own text forms (spec/30_encoding.md R61, R62): they have no semantic effect (D22). -/

namespace Sys2Proof.Machine

/-- A symbol as R8 writes it. -/
def showSym : Sym → String
  | .dot => "."
  | .dash => "-"

/-- A code as R8 writes it. -/
def showCode (c : Code) : String := String.join (c.map showSym)

/-- The codes of one byte separated by one space (R62). -/
def showBytePattern (t : SymTab) (b : Byte) : String :=
  showCode (t (hiNibble b)) ++ " " ++ showCode (t (loNibble b))

/-- A bit pattern written as its codes, bytes separated by ` / ` (R62). -/
def showPattern (t : SymTab) (bs : List Byte) : String :=
  String.intercalate " / " (bs.map (showBytePattern t))

/-- A hex digit. -/
def hexDigit (v : Nibble) : Char := "0123456789ABCDEF".toList.getD v.toNat '0'

/-- A byte as two hex digits (R5). -/
def showByte (b : Byte) : String := String.ofList [hexDigit (hiNibble b), hexDigit (loNibble b)]

/-- A command as its mnemonic and the input bytes in brackets (R61). -/
def showCommand (op : BitVec 1) (bs : List Byte) : String :=
  (if op = 1#1 then "DECODE" else "ENCODE") ++ " [" ++ String.intercalate " " (bs.map showByte) ++ "]"

end Sys2Proof.Machine
end

