-- ==== Sys2Proof/Machine/Stream.lean ====
section
/-! DEFINITION. A bit stream as a sequence of the opcode table's elements and nibble codes (spec/30_encoding.md R46, R54, R62). No step calls it: statements say with it that a DECODE runs the elements of its stream one after the other (log 2). -/

namespace Sys2Proof.Machine

/-- Runs a sequence of instructions, stopping at the first that does not complete. -/
def runInstrs : List Instr → State → Host.Outcome State Fault Refusal
  | [], s => .next s
  | i :: is, s =>
    match exec i s with
    | .next t => runInstrs is t
    | .fault f => .fault f
    | .refused r => .refused r

/-- The bits a row of the table stands for in a stream. -/
def instrBits (i : Instr) : Bits := (encode i).bits

/-- The bits of a sequence of rows. -/
def streamBits (is : List Instr) : Bits := is.flatMap instrBits

/-- The rows one byte is written as: two nibble codes with `G3` between them (R54). -/
def byteInstrs (b : Byte) : List Instr := [nibInstr (hiNibble b), .gapNibble, nibInstr (loNibble b)]

/-- The rows a byte sequence is written as: `G7` between consecutive bytes (R54). -/
def patternInstrs : List Byte → List Instr
  | [] => []
  | [b] => byteInstrs b
  | b :: b' :: bs => byteInstrs b ++ [.gapByte] ++ patternInstrs (b' :: bs)

/-- The two commands of the table (R48); the other rows are read by the scanner. -/
def isCommand : Instr → Bool
  | .encode => true
  | .decode => true
  | .dot => false
  | .dash => false
  | .gapIntra => false
  | .gapNibble => false
  | .gapByte => false
  | .nib0 => false
  | .nib1 => false
  | .nib2 => false
  | .nib3 => false
  | .nib4 => false
  | .nib5 => false
  | .nib6 => false
  | .nib7 => false
  | .nib8 => false
  | .nib9 => false
  | .nibA => false
  | .nibB => false
  | .nibC => false
  | .nibD => false
  | .nibE => false
  | .nibF => false

end Sys2Proof.Machine
end

