-- ==== Sys2Proof/Machine/System.lean ====
section
/-! DEFINITION. Several codec instances (spec/20_memory.md R45, spec/60_exceptions.md R117): each has its own state; they share only the constant SYMTAB. -/

namespace Sys2Proof.Machine

/-- The instances of a system. They have no identifiers the block can see (R117): a place in the list is the host's. -/
structure System where
  instances : List State
  deriving DecidableEq, Repr

/-- Every instance is ready from reset (R117), with unspecified bytes of its own (R45, log 5). -/
def System.reset : System :=
  { instances := (List.range Config.instances).map fun k => { State.reset with instanceNo := k } }

/-- Puts the outcome of one instance's transaction back at its place. Where the transaction is refused (R85), the model
gives the whole system action no next state, for no instance: DESIGN CHOICE, safe (log 14). -/
def System.put (S : System) (k : Nat) : Host.Outcome State Fault Refusal → Host.Outcome System Fault Refusal
  | .next t => .next { instances := S.instances.set k t }
  | .fault f => .fault f
  | .refused r => .refused r

/-- A host action on instance `k` (R42, R45). Where there is no instance `k`, nothing happens. -/
def System.act (S : System) (k : Nat) (a : HostAction) : Host.Outcome System Fault Refusal :=
  match S.instances[k]? with
  | none => .next S
  | some s => System.put S k (hostAct a s)

end Sys2Proof.Machine
end

