-- ==== Sys2Proof/Safety.lean ====
section
/-! DEFINITION. What counts as a safe run, and the invariant of the machine, in the terms the statements use. -/

namespace Sys2Proof.Machine

/-- A step that neither faults nor is refused. -/
def Completes (o : Host.Outcome State Fault Refusal) : Prop := ∃ t, o = .next t

/-- R124: what a host must keep for an ENCODE to have a meaning, under the parameters `p`. -/
def EncodeAdmitted (p : Params) (s : State) : Prop := s.inLen.toNat ≤ p.maxInLen

/-- The invariant of an instance: what every state the machine can be in has, from any state that has it. -/
structure StateInv (s : State) : Prop where
  /-- `IN` is in the canonical form. -/
  inWf : Memory.wf s.inBuf = true
  /-- `OUT` is in the canonical form. -/
  outWf : Memory.wf s.outBuf = true
  /-- R21: the current code has at most 4 symbols. -/
  codeBound : s.decCode.length ≤ 4
  /-- R21, R95: only a full code overflows. -/
  ovfFull : s.decOvf = true → s.decCode.length = 4
  /-- R22, R23: the scanner is not in a run of ones and a run of zeros at once. -/
  oneRun : s.decOnes = 0 ∨ s.decZeros = 0
  /-- R24: "is 0 whenever DEC_HV = 0". -/
  heldClear : s.decHv = false → s.decHeld = 0#4
  /-- R16, R32: every byte of the result has been written. -/
  outListed : ∀ a, a < s.outLen.toNat → (Memory.read s.outBuf a).isSome = true
  /-- R112: a failed result has no bytes. -/
  failEmpty : s.status = resultTruncatedHeader → s.outLen = 0#64

/-- What a command's result consists of (R16): the status, the length and the bytes below it. -/
structure SameResult (s s' : State) : Prop where
  status : s.status = s'.status
  outLen : s.outLen = s'.outLen
  bytes  : ∀ a, a < s.outLen.toNat → outByte s a = outByte s' a

/-- What a command's result may depend on (R82, R102): `IN_LEN` and the bytes below it. -/
structure SameInput (s s' : State) : Prop where
  inLen : s.inLen = s'.inLen
  bytes : ∀ a, a < s.inLen.toNat → inByte s a = inByte s' a

/-- The state no instruction writes (R27): `CMD`, `IN`, `IN_LEN`, and what names `IN`'s unspecified bytes. -/
structure KeepsInputs (s t : State) : Prop where
  cmdPending : t.cmdPending = s.cmdPending
  cmdOp      : t.cmdOp = s.cmdOp
  inBuf      : t.inBuf = s.inBuf
  inLen      : t.inLen = s.inLen
  inDraw     : t.inDraw = s.inDraw
  instanceNo : t.instanceNo = s.instanceNo

/-- The scanner registers are unchanged. -/
structure KeepsScanner (s t : State) : Prop where
  decCode   : t.decCode = s.decCode
  decOvf    : t.decOvf = s.decOvf
  decOnes   : t.decOnes = s.decOnes
  decZeros  : t.decZeros = s.decZeros
  decHv     : t.decHv = s.decHv
  decHeld   : t.decHeld = s.decHeld
  decOutcnt : t.decOutcnt = s.decOutcnt

/-- The result registers, and the draw of `OUT`'s unspecified bytes, are unchanged. -/
structure KeepsResult (s t : State) : Prop where
  status  : t.status = s.status
  outLen  : t.outLen = s.outLen
  outDraw : t.outDraw = s.outDraw

/-- `ENCODE [bs]` with the parameters `p` succeeds with the result `out`. -/
def EncodesTo (p : Params) (s : State) (bs out : List Byte) : Prop :=
  ∃ t, encodeWith p (hostLoad bs s) = .next t ∧ t.status = resultOk ∧ outBytes t = out

end Sys2Proof.Machine
end

