-- ==== Sys2Proof/Certificates/Slice0/Obligations.lean ====
section
/-! DEFINITION. The statements for the provers, in the order of spec/: encodings, the symbol table, ENCODE, DECODE and its scanner, the failure result, reset, the machine as a whole. -/

open Sys2Proof Sys2Proof.Machine

/-! ## Encodings and the symbol table -/

/-- Words written out from the opcode table decode to their rows (R47, R48, R52, R53, R67), and a command word of
another width is rejected by name. That decodeTableWord takes an 8-bit word of the host as a command word is the model's
choice (log 16). -/
def Obligations.TableWordsDecode : Prop :=
  decode { format := .command, bits := [false] } = .ok .encode ∧
  decode { format := .command, bits := [true] } = .ok .decode ∧
  decode { format := .command, bits := [] } = .error .commandWidth ∧
  decode { format := .element, bits := [true] } = .ok .dot ∧
  decode { format := .element, bits := [true, true, true] } = .ok .dash ∧
  decode { format := .element, bits := [false] } = .ok .gapIntra ∧
  decode { format := .element, bits := [false, false, false] } = .ok .gapNibble ∧
  decode { format := .element, bits := [false, false, false, false, false, false, false] } = .ok .gapByte ∧
  decode { format := .element, bits := [true, true] } = .error .unknownElement ∧
  decode { format := .nibbleCode, bits := [true] } = .ok .nib0 ∧
  decode { format := .nibbleCode, bits := [true, false, true, false, true, false, true, true, true] } = .ok .nibF ∧
  decodeTableWord 8 0 = some .encode ∧ decodeTableWord 8 1 = some .decode

/-- Every row's encoding decodes back to the row, under every admissible table, the machine's among them. -/
def Obligations.DecodeInvertsEncode : Prop :=
  (∀ (t : SymTab) (i : Instr), SymTab.admissible t = true → decodeIn t (encodeIn t i) = .ok i) ∧
  ∀ i : Instr, decode (encode i) = .ok i

/-- A word that decodes is exactly the encoding of the row it decodes to: no other word of its layer decodes to it. -/
def Obligations.EncodeInvertsDecode : Prop :=
  ∀ (t : SymTab) (w : TableWord) (i : Instr), decodeIn t w = .ok i → encodeIn t i = w

/-- R69: `Render` is the elements separated by `G1`; it starts and ends with `1` and has `k - 1` zero bits; the
empty code renders to ε. -/
def Obligations.RenderIsElementsSeparatedByGaps : Prop :=
  (∀ c : Code, render c = List.intercalate [false] (c.map symBits)) ∧
  symBits .dot = [true] ∧ symBits .dash = [true, true, true] ∧ render [] = [] ∧
  ∀ c : Code, c ≠ [] →
    (render c).head? = some true ∧ (render c).getLast? = some true ∧ (render c).count false = c.length - 1

/-- Different codes render to different bits, so a rendered code can be read back (R55, R69). -/
def Obligations.RenderInjective : Prop := ∀ c d : Code, render c = render d → c = d

/-- R70: the rendered length, its range over codes of 1 to 4 symbols with its two ends, and the two source entries. -/
def Obligations.RenderedLength : Prop :=
  (∀ c : Code, c ≠ [] → (render c).length = c.count .dot + 3 * c.count .dash + (c.length - 1)) ∧
  (∀ c : Code, 1 ≤ c.length → c.length ≤ 4 →
    1 ≤ (render c).length ∧ (render c).length ≤ 15 ∧
    ((render c).length = 1 ↔ c = [.dot]) ∧ ((render c).length = 15 ↔ c = [.dash, .dash, .dash, .dash])) ∧
  ∀ t : SymTab, SymTab.admissible t = true →
    (render (t 0x0#4)).length = 1 ∧ (render (t 0xF#4)).length = 9

/-- R65, R66, R67 for the machine's table: code lengths, injectivity (16 distinct codes), the two source entries;
the code of 0x0 is a proper prefix of the code of 0xF. -/
def Obligations.MachineTableIsAdmissible : Prop :=
  (∀ v : Nibble, 1 ≤ (Config.symtab v).length ∧ (Config.symtab v).length ≤ 4) ∧
  (∀ v w : Nibble, Config.symtab v = Config.symtab w → v = w) ∧
  (allNibbles.map Config.symtab).Nodup ∧ (allNibbles.map Config.symtab).length = 16 ∧
  Config.symtab 0x0#4 = [.dot] ∧ Config.symtab 0xF#4 = [.dot, .dot, .dot, .dash] ∧
  Config.symtab 0x0#4 <+: Config.symtab 0xF#4

/-- R71: `INV(c)` is `some v` exactly for the `v` with `SYMTAB[v] = c`, and `none` when there is none. -/
def Obligations.InverseLookup : Prop :=
  ∀ t : SymTab, SymTab.admissible t = true → ∀ c : Code,
    (∀ v : Nibble, inv t c = some v ↔ t v = c) ∧ (inv t c = none ↔ ∀ v : Nibble, t v ≠ c)

/-- R72, its four items. -/
def Obligations.InverseProperties : Prop :=
  ∀ t : SymTab, SymTab.admissible t = true →
    (∀ v : Nibble, inv t (t v) = some v) ∧ inv t [] = none ∧
    (∀ c : Code, 5 ≤ c.length → inv t c = none) ∧
    codesUpTo4.length = 30 ∧ (∀ c : Code, c ∈ codesUpTo4 ↔ 1 ≤ c.length ∧ c.length ≤ 4) ∧ codesUpTo4.Nodup ∧
    (codesUpTo4.filter fun c => (inv t c).isSome).length = 16

/-! ## The framed stream -/

/-- R34: the header is 8 bytes, byte `k` holding bits `8k+7 .. 8k`; it is read as the sum of `F[k] << 8k`, and
writing and reading are inverse on 64-bit counts. -/
def Obligations.HeaderIsLittleEndian : Prop :=
  (∀ n : Nat, n < 2 ^ 64 →
    (headerBytes n).length = 8 ∧
    (∀ k, k < 8 → ((headerBytes n).getD k 0).toNat = n / 2 ^ (8 * k) % 256) ∧
    littleEndian (headerBytes n) = n) ∧
  (∀ bs : List Byte,
    littleEndian bs = ((List.range bs.length).map fun k => (bs.getD k 0).toNat * 2 ^ (8 * k)).sum) ∧
  ∀ bs : List Byte, bs.length = 8 → littleEndian bs < 2 ^ 64 ∧ headerBytes (littleEndian bs) = bs

/-- R35, R36, R37: bit `j` of a pattern is bit `7 - (j mod 8)` of payload byte `j div 8`; the padding bits are 0;
expanding the payload and keeping the first bits gives the pattern back. -/
def Obligations.PackingIsMsbFirstZeroPadded : Prop :=
  ∀ P : Bits,
    (packBits P).length = (P.length + 7) / 8 ∧
    (∀ j, j < P.length → ((packBits P).getD (j / 8) 0).getLsbD (7 - j % 8) = P.getD j false) ∧
    (∀ j, P.length ≤ j → j < 8 * ((P.length + 7) / 8) → ((packBits P).getD (j / 8) 0).getLsbD (7 - j % 8) = false) ∧
    (expandBytes (packBits P)).take P.length = P

/-! ## ENCODE -/

/-- R75: the loop of R73 computes the pattern of R54, and ENCODE writes the frame of the pattern of
`IN[0 .. IN_LEN-1]`, for every input it admits: under any parameters, and so as the machine's instruction. -/
def Obligations.EncodeComputesPattern : Prop :=
  (∀ (t : SymTab) (bs : List Byte), encodeLoop t 0 bs [] = pattern t bs) ∧
  (∀ (p : Params) (s : State), EncodeAdmitted p s →
    encodeWith p s = .next (writeFrame (pattern p.symtab (inBytes s)) s)) ∧
  ∀ s : State, EncodeAdmitted Config.params s →
    exec .encode s = .next (writeFrame (pattern Config.symtab (inBytes s)) s)

/-- R83's length formula. -/
def Obligations.PatternLengthFormula : Prop :=
  ∀ t : SymTab,
    (pattern t []).length = 0 ∧
    ∀ bs : List Byte, bs ≠ [] →
      (pattern t bs).length =
        (bs.map fun b => (render (t (hiNibble b))).length + 3 + (render (t (loNibble b))).length).sum +
          7 * (bs.length - 1)

/-- R84's bounds and parity: every rendered code and every encoded byte has odd length, a byte 5 to 33 bits (25
under the default table), and a non-empty pattern has odd length between `12n - 7` and `40n - 7` (`32n - 7` under
the default table). -/
def Obligations.PatternLengthBounds : Prop :=
  ∀ t : SymTab, SymTab.admissible t = true →
    (∀ v : Nibble, (render (t v)).length % 2 = 1) ∧
    (∀ b : Byte, (bytePattern t b).length % 2 = 1 ∧ 5 ≤ (bytePattern t b).length ∧ (bytePattern t b).length ≤ 33 ∧
      (bytePattern defaultSymtab b).length ≤ 25) ∧
    ∀ bs : List Byte, bs ≠ [] →
      (pattern t bs).length % 2 = 1 ∧ 12 * bs.length ≤ (pattern t bs).length + 7 ∧
      (pattern t bs).length + 7 ≤ 40 * bs.length ∧ (pattern defaultSymtab bs).length + 7 ≤ 32 * bs.length

/-- R54: the pattern is the encoded bytes separated by `G7`, each byte its two rendered codes separated by `G3`. A
non-empty pattern starts and ends with `1`, its runs of ones have length 1 or 3, its runs of zeros length 1, 3 or 7,
with exactly `n` runs of 3 zeros and `n - 1` runs of 7. -/
def Obligations.PatternGrammar : Prop :=
  (∀ (t : SymTab) (bs : List Byte),
    pattern t bs = List.intercalate [false, false, false, false, false, false, false]
      (bs.map fun b => render (t (b.extractLsb' 4 4)) ++ [false, false, false] ++ render (t (b.extractLsb' 0 4)))) ∧
  ∀ t : SymTab, SymTab.admissible t = true → ∀ bs : List Byte, bs ≠ [] →
    (pattern t bs).head? = some true ∧ (pattern t bs).getLast? = some true ∧
    (∀ k, (true, k) ∈ runs (pattern t bs) → k = 1 ∨ k = 3) ∧
    (∀ k, (false, k) ∈ runs (pattern t bs) → k = 1 ∨ k = 3 ∨ k = 7) ∧
    (runs (pattern t bs)).count (false, 3) = bs.length ∧
    (runs (pattern t bs)).count (false, 7) = bs.length - 1

/-- R78, R79, R80, R81: for all admissible parameters (the machine's among them) and every admitted input ENCODE
completes; `STATUS.RESULT` is OK, `OUT_LEN` is `8 + ceil(N/8)`, the header bytes are those of `N`, each payload byte is
the sum of R79; `CMD`, `IN` and `IN_LEN` are unchanged. -/
def Obligations.EncodeResult : Prop :=
  ∀ (p : Params) (s : State), p.admissible → EncodeAdmitted p s → ∃ t, encodeWith p s = .next t ∧
    (p = Config.params → exec .encode s = .next t) ∧
    t.status = 0#1 ∧
    t.outLen.toNat = 8 + ((pattern p.symtab (inBytes s)).length + 7) / 8 ∧
    (∀ k, k < 8 → (outByte t k).toNat = (pattern p.symtab (inBytes s)).length / 2 ^ (8 * k) % 256) ∧
    (∀ q, q < ((pattern p.symtab (inBytes s)).length + 7) / 8 →
      (outByte t (8 + q)).toNat =
        ((List.range 8).map fun j =>
          if (pattern p.symtab (inBytes s)).getD (8 * q + j) false then 2 ^ (7 - j) else 0).sum) ∧
    KeepsInputs s t

/-- R77: the header of every ENCODE output holds exactly the number of pattern bits, which cannot overflow it; for all
admissible parameters (the machine's among them). -/
def Obligations.EncodeHeaderHoldsBitCount : Prop :=
  ∀ (p : Params) (s : State), p.admissible → EncodeAdmitted p s → ∃ t, encodeWith p s = .next t ∧
    (p = Config.params → exec .encode s = .next t) ∧
    littleEndian ((List.range 8).map (outByte t)) = (pattern p.symtab (inBytes s)).length ∧
    (pattern p.symtab (inBytes s)).length ≤ 40 * 2 ^ 58 - 7 ∧
    (pattern p.symtab (inBytes s)).length < 2 ^ 64

/-- R85: an ENCODE beyond `MAX_IN_LEN`, which is at most `2^58`, is refused. -/
def Obligations.EncodeRefusedBeyondMax : Prop :=
  Config.maxInLen ≤ 2 ^ 58 ∧
  ∀ s : State, Config.maxInLen < s.inLen.toNat → exec .encode s = .refused .inLenBeyondMax

/-- The worked examples of the source (95_test_vectors.md V-W6, V-W7, V-W8), for every admissible parameters that
admit two bytes. -/
def Obligations.EncodeWorkedExamples : Prop :=
  ∀ p : Params, p.admissible → 2 ≤ p.maxInLen → ∀ s : State,
    EncodesTo p s [] [0, 0, 0, 0, 0, 0, 0, 0] ∧
    EncodesTo p s [0x00] [0x05, 0, 0, 0, 0, 0, 0, 0, 0x88] ∧
    EncodesTo p s [0xFF, 0xFF] [0x31, 0, 0, 0, 0, 0, 0, 0, 0xAB, 0x8A, 0xB8, 0x0A, 0xB8, 0xAB, 0x80]

/-! ## DECODE -/

/-- R106, R112: every DECODE with `IN_LEN` in 0..7 ends with `STATUS.RESULT = 1`, `OUT_LEN = 0` and no byte of
`OUT` written; nothing else changes. That no byte of `OUT` is listed after it is the model's form of "no byte written,
all unspecified" (log 6). That the scanner registers stay as the start of the command left them is the model's reading of
R112 beside R16 and R122 (log 9). -/
def Obligations.DecodeTruncatedHeader : Prop :=
  ∀ s : State, s.inLen.toNat < 8 → ∃ t, exec .decode s = .next t ∧
    t.status = 1#1 ∧ t.outLen = 0#64 ∧ t.outBuf = [] ∧ KeepsInputs s t ∧ KeepsScanner s t

/-- R88, R89, R90, R104: every DECODE completes. With `IN_LEN >= 8` it scans exactly the first `M = min(N, A)` payload
bits, with `N` the little-endian header and bit `j` bit `7 - (j mod 8)` of `IN[8 + (j div 8)]`, and succeeds. -/
def Obligations.DecodeScansTruncatedPayload : Prop :=
  (∀ s : State, ∃ t, exec .decode s = .next t) ∧
  ∀ s : State, 8 ≤ s.inLen.toNat → ∀ M : Nat,
    M = min (((List.range 8).map fun k => (inByte s k).toNat * 2 ^ (8 * k)).sum) (8 * (s.inLen.toNat - 8)) →
    ∃ bits : Bits, bits.length = M ∧
      (∀ j, j < M → bits.getD j false = (inByte s (8 + j / 8)).getLsbD (7 - j % 8)) ∧
      exec .decode s = .next (decodeScan Config.symtab bits s) ∧
      (decodeScan Config.symtab bits s).status = 0#1

/-- R99: DECODE computes the closed form over maximal runs of the `M` scanned bits: the bit-serial scanner and the
closed form agree for every input of 8 bytes or more. -/
def Obligations.DecodeIsClosedForm : Prop :=
  ∀ s : State, 8 ≤ s.inLen.toNat → ∃ t, exec .decode s = .next t ∧
    t.status = 0#1 ∧
    t.outLen.toNat = (recognized Config.symtab (payloadBits s (scanCount (headerValue s) s))).length / 2 ∧
    outBytes t = closedForm Config.symtab (payloadBits s (scanCount (headerValue s) s)) ∧
    KeepsInputs s t

/-- R103: the bounds on the recognized nibbles and on the output, for the `M = min(N, A)` scanned bits. -/
def Obligations.DecodeOutputBound : Prop :=
  ∀ s : State, 8 ≤ s.inLen.toNat → ∀ M : Nat, M = min (headerValue s) (8 * (s.inLen.toNat - 8)) →
    (recognized Config.symtab (payloadBits s M)).length ≤ (M + 3) / 4 ∧
    ∃ t, exec .decode s = .next t ∧ t.outLen.toNat = (recognized Config.symtab (payloadBits s M)).length / 2 ∧
      t.outLen.toNat ≤ (M + 3) / 8

/-- R102: the DECODE result depends only on `IN_LEN >= 8` and the first `min(N, A)` payload bits, so padding bits and
surplus bytes do not matter: any stream with the same header whose payload has the same first `N` bits decodes alike. -/
def Obligations.DecodeIgnoresPaddingAndSurplus : Prop :=
  (∀ s s' t : State, 8 ≤ s.inLen.toNat → 8 ≤ s'.inLen.toNat →
    payloadBits s (scanCount (headerValue s) s) = payloadBits s' (scanCount (headerValue s') s') →
    exec .decode s = .next t → ∃ t', exec .decode s' = .next t' ∧ SameResult t t') ∧
  ∀ (s s' t : State) (n : Nat), headerValue s = n → headerValue s' = n →
    8 + (n + 7) / 8 ≤ s.inLen.toNat → 8 + (n + 7) / 8 ≤ s'.inLen.toNat →
    payloadBits s n = payloadBits s' n →
    exec .decode s = .next t → ∃ t', exec .decode s' = .next t' ∧ SameResult t t'

/-- R101: for every admissible parameters and every byte sequence that ENCODE admits, ENCODE, `IN <- OUT`, DECODE gives
OK and the same bytes; the same for the machine's own commands run through its host interface. -/
def Obligations.EncodeDecodeRoundTrip : Prop :=
  (∀ p : Params, p.admissible → ∀ (bs : List Byte) (s : State), bs.length ≤ p.maxInLen →
    ∃ t u, encodeWith p (hostLoad bs s) = .next t ∧
      decodeWith p.symtab (hostCopyOutToIn t) = .next u ∧ u.status = 0#1 ∧ outBytes u = bs) ∧
  ∀ (bs : List Byte) (s : State), bs.length ≤ Config.maxInLen →
    ∃ u, runHost [.issue 0#1, .copyOutToIn, .issue 1#1] (hostLoad bs s) = .next u ∧
      u.status = 0#1 ∧ outBytes u = bs

/-- Zero bits after the end of a stream do not change its output (92_eei_decisions.md D6, 95_test_vectors.md §4). -/
def Obligations.TrailingZerosDoNotMatter : Prop :=
  ∀ (t : SymTab) (bits : Bits) (k : Nat) (s : State), SymTab.admissible t = true →
    outBytes (decodeScan t (bits ++ List.replicate k false) s) = outBytes (decodeScan t bits s)

/-- R100, R57: the width of a gap of 3 or more zeros plays no part, so no gap width re-synchronises the pairing. -/
def Obligations.GapWidthDoesNotMatter : Prop :=
  ∀ (t : SymTab) (left right : Bits) (z z' : Nat) (s : State), 3 ≤ z → 3 ≤ z' →
    outBytes (decodeScan t (left ++ List.replicate z false ++ right) s) =
      outBytes (decodeScan t (left ++ List.replicate z' false ++ right) s)

/-! ## The scanner and the pattern elements -/

/-- R52, R92: DOT is one scanned `1` and DASH three: a scanned `1` ends any run of zeros and extends the run of ones,
saturating at 4, and changes nothing else. That the two rows run alone as steps of the scanner is the model's choice
(log 2). -/
def Obligations.DotAndDashExtendTheRunOfOnes : Prop :=
  ∀ s : State,
    (∃ t, exec .dot s = .next t ∧ t.decZeros = 0 ∧ t.decOnes.val = min (s.decOnes.val + 1) 4 ∧
      t = setOnes t.decOnes (setZeros 0 s)) ∧
    ∃ t, exec .dash s = .next t ∧ t.decZeros = 0 ∧ t.decOnes.val = min (s.decOnes.val + 3) 4 ∧
      t = setOnes t.decOnes (setZeros 0 s)

/-- R93: GAP_INTRA is one scanned `0`: the run of ones it ends is classified, the third zero closes the code, and the
run of zeros is extended, saturating at 3. That the row runs alone as a step of the scanner is the model's choice (log 2). -/
def Obligations.GapIntraIsOneZero : Prop :=
  ∀ s : State, ∃ t, exec .gapIntra s = .next t ∧ t.decZeros.val = min (s.decZeros.val + 1) 3 ∧
    t = setZeros t.decZeros
          (if s.decZeros.val = 2 then close Config.symtab (if s.decOnes = 0 then s else classify s)
           else if s.decOnes = 0 then s else classify s)

/-- R57: GAP_NIBBLE and GAP_BYTE are one and the same in every state; each closes the code once, unless the run of
zeros it extends had already closed it. That the rows run alone as steps of the scanner is the model's choice (log 2). -/
def Obligations.GapNibbleAndGapByteCloseOnce : Prop :=
  ∀ s : State, exec .gapByte s = exec .gapNibble s ∧
    ∃ t, exec .gapNibble s = .next t ∧
      t = setZeros 3
            (if s.decZeros = 3 then (if s.decOnes = 0 then s else classify s)
             else close Config.symtab (if s.decOnes = 0 then s else classify s))

/-- R56: how a maximal run of `r` ones is read. -/
def Obligations.OnesRunReading : Prop :=
  ∀ (t : SymTab) (s : State) (r : Nat), s.decOnes = 0 → 1 ≤ r →
    scanBits t (List.replicate r true ++ [false]) s =
      setZeros 1 (setOnes 0 (if r = 1 then append .dot s else if r = 3 then append .dash s else s))

/-- R57: how a maximal run of `z` zeros is read, at the start of the stream or after any run of ones, which its first
zero ends. -/
def Obligations.ZerosRunReading : Prop :=
  ∀ (t : SymTab) (s u : State) (z : Nat), s.decZeros = 0 → u = (if s.decOnes = 0 then s else classify s) →
    (z = 1 → scanBits t (List.replicate z false) s = setZeros 1 u) ∧
    (z = 2 → scanBits t (List.replicate z false) s = setZeros 2 u) ∧
    (3 ≤ z → scanBits t (List.replicate z false) s = setZeros 3 (close t u))

/-- R94: the three readings of a run of ones that has ended. -/
def Obligations.ClassifyReading : Prop :=
  ∀ s : State,
    (s.decOnes = 1 → classify s = setOnes 0 (append .dot s)) ∧
    (s.decOnes = 3 → classify s = setOnes 0 (append .dash s)) ∧
    (s.decOnes ≠ 1 → s.decOnes ≠ 3 → classify s = setOnes 0 s)

/-- R95: with 4 symbols and the overflow flag the register resolves exactly like an unbounded code string. -/
def Obligations.BoundedCodeResolvesLikeUnbounded : Prop :=
  (∀ (x : Sym) (s : State),
    append x s = if s.decCode.length < 4 then { s with decCode := s.decCode ++ [x] } else { s with decOvf := true }) ∧
  ∀ (xs : List Sym) (s : State), s.decCode = [] → s.decOvf = false →
    (xs.length ≤ 4 → xs.foldl (fun u x => append x u) s = { s with decCode := xs }) ∧
    (5 ≤ xs.length → xs.foldl (fun u x => append x u) s = { s with decCode := xs.take 4, decOvf := true }) ∧
    ∀ t : SymTab, SymTab.admissible t = true →
      resolveCode t (xs.foldl (fun u x => append x u) s) = inv t xs

/-- R96: the three effects of a close. The count of emitted bytes stays below `2^64` (R7). -/
def Obligations.CloseEffect : Prop :=
  ∀ (t : SymTab) (s : State) (v : Option Nibble), v = (if s.decOvf = true then none else inv t s.decCode) →
    (v = none → close t s = { s with decCode := [], decOvf := false }) ∧
    (∀ n, v = some n → s.decHv = false →
      close t s = { s with decCode := [], decOvf := false, decHeld := n, decHv := true }) ∧
    ∀ n, v = some n → s.decHv = true → s.decOutcnt.toNat + 1 < 2 ^ 64 →
      ∃ (b : Byte) (k : Word64), b.toNat = s.decHeld.toNat * 16 + n.toNat ∧ k.toNat = s.decOutcnt.toNat + 1 ∧
        close t s = { s with decCode := [], decOvf := false, decHv := false, decHeld := 0#4, decOutcnt := k,
                             outBuf := Memory.write s.outBuf s.decOutcnt.toNat b }

/-- R97, R108: the end of the stream classifies a final run, closes, and drops a lone held nibble without writing. -/
def Obligations.EndOfStreamDropsLoneNibble : Prop :=
  ∀ (t : SymTab) (s : State),
    (∀ u, u = close t (if s.decOnes = 0 then s else classify s) →
      (u.decHv = true → endOfStream t s = { u with decHv := false, decHeld := 0#4 }) ∧
      (u.decHv = false → endOfStream t s = u)) ∧
    (endOfStream t s).decHv = false ∧ (s.decHv = false → s.decHeld = 0#4 → (endOfStream t s).decHeld = 0#4) ∧
    (endOfStream t s).decOnes = 0 ∧ (endOfStream t s).decCode = [] ∧ (endOfStream t s).decOvf = false ∧
    (s.decHv = false → (endOfStream t s).outBuf = s.outBuf ∧ (endOfStream t s).decOutcnt = s.decOutcnt)

/-- The sixteen nibble codes complete in every state and touch only the code, its overflow flag and the two run counters;
from a fresh code, all symbols but the last are in `DEC_CODE` and the last one is the open run (R69, R92-R95). That the rows run alone as steps of the scanner is
the model's choice (log 2). -/
def Obligations.NibbleCodesComplete : Prop :=
  ∀ (i : Instr) (v : Nibble) (s : State), i.nibble? = some v → ∃ t, exec i s = .next t ∧
    t.decZeros = 0 ∧
    t = { s with decCode := t.decCode, decOvf := t.decOvf, decOnes := t.decOnes, decZeros := t.decZeros } ∧
    (s.decOnes = 0 → s.decCode = [] → s.decOvf = false →
      t.decCode = (Config.symtab v).dropLast ∧ t.decOvf = false ∧
      ∀ x, (Config.symtab v).getLast? = some x → t.decOnes.val = (symBits x).length)

/-- The row NIB_v followed by a code boundary is read as the nibble `v`: held as a high nibble, or completing the byte
`16 * held + v` at index `DEC_OUTCNT` (R57, R72, R96; the count is a 64-bit register, log 10). That the rows run alone as steps of the
scanner is the model's choice (log 2). -/
def Obligations.NibbleCodeReadsBackAsItsNibble : Prop :=
  ∀ (i gap : Instr) (v : Nibble) (s : State), i.nibble? = some v → (gap = .gapNibble ∨ gap = .gapByte) →
    s.decOnes = 0 → s.decCode = [] → s.decOvf = false →
    ∃ t u, exec i s = .next t ∧ exec gap t = .next u ∧ u.decCode = [] ∧ u.decOvf = false ∧ u.decOnes = 0 ∧
      (s.decHv = false →
        u.decHv = true ∧ u.decHeld = v ∧ u.outBuf = s.outBuf ∧ u.decOutcnt = s.decOutcnt) ∧
      (s.decHv = true →
        u.decHv = false ∧ u.decHeld = 0#4 ∧ u.decOutcnt = s.decOutcnt + 1#64 ∧
        (outByte u s.decOutcnt.toNat).toNat = s.decHeld.toNat * 16 + v.toNat ∧
        ∀ a, a ≠ s.decOutcnt.toNat → outByte u a = outByte s a)

/-- The frame of the elements and nibble codes: no input or result register changes; DOT, DASH and the nibble codes store
nothing; a gap stores at most one byte, at index `DEC_OUTCNT`, and only when a nibble is held (R27, R96). That
the rows run alone as steps of the scanner is the model's choice (log 2). -/
def Obligations.ElementFrame : Prop :=
  ∀ (i : Instr) (s t : State), isCommand i = false → exec i s = .next t →
    KeepsInputs s t ∧ KeepsResult s t ∧
    (∀ a, a ≠ s.decOutcnt.toNat → outByte t a = outByte s a) ∧
    (s.decHv = false → t.outBuf = s.outBuf ∧ t.decOutcnt = s.decOutcnt) ∧
    (i = .dot ∨ i = .dash ∨ i.nibble?.isSome = true → t.outBuf = s.outBuf ∧ t.decOutcnt = s.decOutcnt)

/-- A DECODE is its stream's elements run one after the other between `ScanInit` and the end of the stream; and the
stream of an ENCODE is the sequence of rows of R54's grammar. Running the rows one by one is the model's reading of them
(log 2). -/
def Obligations.DecodeRunsTheElementsOfItsStream : Prop :=
  (∀ (is : List Instr) (s : State), (∀ i ∈ is, isCommand i = false) →
    runInstrs is s = .next (scanBits Config.symtab (streamBits is) s)) ∧
  (∀ bs : List Byte, (∀ i ∈ patternInstrs bs, isCommand i = false) ∧
    streamBits (patternInstrs bs) = pattern Config.symtab bs) ∧
  ∀ (is : List Instr) (s : State), (∀ i ∈ is, isCommand i = false) → 8 ≤ s.inLen.toNat →
    payloadBits s (scanCount (headerValue s) s) = streamBits is →
    ∃ u, runInstrs is (scanInit (openOut s)) = .next u ∧
      exec .decode s = .next (finishDecode (endOfStream Config.symtab u))

/-! ## Memory, results and access -/

/-- R32, R40: `MemWrite(a, 1, v)` sets `OUT[a]`, no other byte of `OUT`, no byte of `IN` and no register; it keeps the
canonical form. -/
def Obligations.MemWriteSetsOneByte : Prop :=
  ∀ (s : State) (a b : Nat) (v : Byte),
    memWrite a v s = { s with outBuf := (memWrite a v s).outBuf } ∧
    outByte (memWrite a v s) b = (if b = a then v else outByte s b) ∧ inByte (memWrite a v s) b = inByte s b ∧
    (Memory.wf s.outBuf = true → Memory.wf (memWrite a v s).outBuf = true)

/-- R16, R19, R32: after a command exactly the indices below `OUT_LEN` have been written; a byte at or above it is the
model's free value (log 6), and the host sees it so. -/
def Obligations.CommandsWriteExactlyTheResult : Prop :=
  ∀ (i : Instr) (s t : State), isCommand i = true → exec i s = .next t →
    (∀ a, (Memory.read t.outBuf a).isSome = true ↔ a < t.outLen.toNat) ∧
    (∀ a, t.outLen.toNat ≤ a → outByte t a = Config.freeOutByte t.instanceNo t.outDraw a) ∧
    (∀ a : Word64, a < t.outLen → hostReadOut t a = outByte t a.toNat) ∧
    ∀ a : Word64, ¬ a < t.outLen → hostReadOut t a = Config.freeOutByte t.instanceNo t.outDraw a.toNat

/-- R17: the two values of `STATUS.RESULT` after a command. -/
def Obligations.StatusTellsTheOutcome : Prop :=
  (∀ s t : State, exec .encode s = .next t → t.status = 0#1) ∧
  ∀ s t : State, exec .decode s = .next t →
    (s.inLen.toNat < 8 → t.status = 1#1) ∧ (8 ≤ s.inLen.toNat → t.status = 0#1)

/-- R82, R122: a command's result depends only on `IN_LEN` and the bytes below it: not on `OUT`, on the scanner, on
`STATUS` or on earlier commands. Run twice on an unchanged input it gives the same result (R40). -/
def Obligations.ResultDependsOnlyOnInput : Prop :=
  (∀ (i : Instr) (s s' t : State), isCommand i = true → SameInput s s' → exec i s = .next t →
    ∃ t', exec i s' = .next t' ∧ SameResult t t') ∧
  ∀ (i : Instr) (s t : State), isCommand i = true → exec i s = .next t →
    ∃ u, exec i t = .next u ∧ SameResult t u

/-- R27, "block write": no instruction writes `CMD`, `IN` or `IN_LEN`; ENCODE itself writes no scanner register (log 9:
they are re-initialised before it, when the command begins); only the commands write `STATUS` and `OUT_LEN`. -/
def Obligations.BlockWritesOnlyWhatItMay : Prop :=
  ∀ (i : Instr) (s t : State), exec i s = .next t →
    KeepsInputs s t ∧ (i = .encode → KeepsScanner s t) ∧ (isCommand i = false → KeepsResult s t)

/-- R27, "host write" and "host read": what the host can write is `CMD.OP`, `IN` and `IN_LEN`, and a write of `IN` or
`IN_LEN` changes only that, as asked; `IN <- OUT` (R61) copies the result. The host reads the values of `IN_LEN`,
`STATUS` and `OUT_LEN` and the bytes of the two buffers below their lengths; of `CMD.OP`, `SYMTAB` and the scanner it
reads nothing. A read of a buffer at or above its length answers the model's free value (log 6, log 18). -/
def Obligations.HostWritesOnlyWhatItMay : Prop :=
  (∀ r : Port, hostWritable r = true ↔ r = .cmdOp ∨ r = .inBuf ∨ r = .inLen) ∧
  (∀ (a : Word64) (v : Byte) (s : State), ∃ t, hostAct (.writeIn a v) s = .next t ∧ t = { s with inBuf := t.inBuf } ∧
    ∀ b, inByte t b = if b = a.toNat then v else inByte s b) ∧
  (∀ (n : Word64) (s : State), hostAct (.setInLen n) s = .next { s with inLen := n }) ∧
  (∀ s : State, ∃ t, hostAct .copyOutToIn s = .next t ∧ t = { s with inBuf := t.inBuf, inLen := s.outLen } ∧
    inBytes t = outBytes s) ∧
  (∀ r : Port, hostReadable r = true ↔ r = .inBuf ∨ r = .inLen ∨ r = .status ∨ r = .outBuf ∨ r = .outLen) ∧
  (∀ s : State, hostRead .inLen s = some s.inLen.toNat ∧ hostRead .status s = some s.status.toNat ∧
    hostRead .outLen s = some s.outLen.toNat) ∧
  (∀ (r : Port) (s : State),
    (r = .cmdOp ∨ r = .symtab ∨ r = .decCode ∨ r = .decOvf ∨ r = .decOnes ∨ r = .decZeros ∨ r = .decHv ∨
      r = .decHeld ∨ r = .decOutcnt) → hostRead r s = none) ∧
  (∀ (s : State) (a : Word64),
    (a < s.inLen → hostReadIn s a = inByte s a.toNat) ∧
    (¬ a < s.inLen → hostReadIn s a = Config.freeInByte s.instanceNo s.inDraw a.toNat)) ∧
  ∀ (s : State) (a : Word64),
    (a < s.outLen → hostReadOut s a = outByte s a.toNat) ∧
    (¬ a < s.outLen → hostReadOut s a = Config.freeOutByte s.instanceNo s.outDraw a.toNat)

/-! ## The machine -/

/-- R28: the reset values that the spec states, at power-on and from any state, with no command pending. -/
def Obligations.ResetValues : Prop :=
  ∀ r : State, (r = State.reset ∨ ∃ s, r = hostReset s) →
    r.cmdPending = false ∧ r.inLen = 0#64 ∧ r.status = 0#1 ∧ r.outLen = 0#64 ∧ r.decCode = [] ∧ r.decOvf = false ∧
    r.decOnes = 0 ∧ r.decZeros = 0 ∧ r.decHv = false ∧ r.decHeld = 0#4 ∧ r.decOutcnt = 0#64

/-- After reset every byte of either buffer is a free value of the instance's own, of a draw that the reset began (the
model's form of "unspecified", log 5); the instances of a system are told apart by their numbers. A reset starts no
command: the step after it changes nothing (R120, R119). -/
def Obligations.ResetLeavesBuffersUnspecified : Prop :=
  (∀ (s : State) (a : Nat),
    inByte (hostReset s) a = Config.freeInByte s.instanceNo (s.inDraw + 1) a ∧
    outByte (hostReset s) a = Config.freeOutByte s.instanceNo (s.outDraw + 1) a) ∧
  (∀ k, k < Config.instances → System.reset.instances[k]? = some { State.reset with instanceNo := k }) ∧
  (∀ k a, inByte { State.reset with instanceNo := k } a = Config.freeInByte k State.reset.inDraw a ∧
    outByte { State.reset with instanceNo := k } a = Config.freeOutByte k State.reset.outDraw a) ∧
  step State.reset = .next State.reset ∧ ∀ s : State, step (hostReset s) = .next (hostReset s)

/-- R119: an idle instance keeps all its state. -/
def Obligations.IdleInstanceKeepsItsState : Prop := ∀ s : State, s.cmdPending = false → step s = .next s

/-- R14, R15, R48: a step runs the instruction that the pending command word decodes to, once, and the word is no longer
pending; the command starts with the scanner re-initialised (R122, log 9). The same through the host's write of `CMD`
and through `withFetchWord`, the model's way to place a command word (log 3), a word of any width with `CMD.OP` as its
bit 0 being the model's choice (log 16). -/
def Obligations.StepRunsTheDecodedCommand : Prop :=
  (∀ (s : State) (i : Instr), s.cmdPending = true →
    decode { format := .command, bits := [s.cmdOp.getLsbD 0] } = .ok i →
    step s = exec i (scanInit { s with cmdPending := false })) ∧
  (∀ (s : State) (nbits w : Nat) (i : Instr), decodeTableWord nbits w = some i →
    step (s.withFetchWord nbits w) = exec i (scanInit { s with cmdPending := false, cmdOp := BitVec.ofNat 1 w })) ∧
  ∀ (s : State) (op : BitVec 1),
    hostAct (.issue op) s = exec (decodeOp op) (scanInit { s with cmdPending := false, cmdOp := op })

/-- R2, R16, R122: every command starts from the same internal state, whatever earlier commands left in the scanner
registers: `ScanInit` gives them the values of R91 and changes nothing else, the step does not depend on what they held,
and after an ENCODE or a failed DECODE they hold those values (log 9). -/
def Obligations.CommandsStartFromOneInternalState : Prop :=
  (∀ s : State, scanInit s =
    { s with decCode := [], decOvf := false, decOnes := 0, decZeros := 0, decHv := false, decHeld := 0#4,
             decOutcnt := 0#64 }) ∧
  (∀ (s : State) (c : Code) (o : Bool) (r : Fin 5) (z : Fin 4) (v : Bool) (h : Nibble) (n : Word64),
    s.cmdPending = true →
    step { s with decCode := c, decOvf := o, decOnes := r, decZeros := z, decHv := v, decHeld := h, decOutcnt := n } =
      step s) ∧
  ∀ s t : State, s.cmdPending = true → (s.cmdOp = 0#1 ∨ s.inLen.toNat < 8) → step s = .next t →
    KeepsScanner (scanInit s) t

/-- R49: both values of `OP` are commands; the only refusal of a step is an ENCODE with `IN_LEN > MAX_IN_LEN`. -/
def Obligations.OnlyLongEncodeIsRefused : Prop :=
  decodeOp 0#1 = .encode ∧ decodeOp 1#1 = .decode ∧
  ∀ (s : State) (r : Refusal),
    step s = .refused r ↔
      s.cmdPending = true ∧ s.cmdOp = 0#1 ∧ Config.maxInLen < s.inLen.toNat ∧ r = .inLenBeyondMax

/-- R31: no instruction reads `IN` outside `0 .. IN_LEN-1`, so none faults, and neither does a step. -/
def Obligations.NoStepFaults : Prop :=
  (∀ (i : Instr) (s : State) (f : Fault), exec i s ≠ .fault f) ∧ ∀ (s : State) (f : Fault), step s ≠ .fault f

/-- The invariant holds right after reset. -/
def Obligations.ResetHasInvariant : Prop := StateInv State.reset

/-- Every instruction, every step and every host action keeps the invariant. -/
def Obligations.InvariantIsKept : Prop :=
  (∀ (i : Instr) (s t : State), StateInv s → exec i s = .next t → StateInv t) ∧
  (∀ s t : State, StateInv s → step s = .next t → StateInv t) ∧
  ∀ (a : HostAction) (s t : State), StateInv s → hostAct a s = .next t → StateInv t

/-- R45, R117: an action on one instance leaves every other instance as it was, and actions on different instances
commute. -/
def Obligations.InstancesAreIndependent : Prop :=
  (∀ (S S' : System) (k j : Nat) (a : HostAction), S.act k a = .next S' → j ≠ k →
    S'.instances[j]? = S.instances[j]?) ∧
  ∀ (S A B C : System) (k j : Nat) (a b : HostAction), k ≠ j →
    S.act k a = .next A → A.act j b = .next B → S.act j b = .next C → C.act k a = .next B
end

