-- ==== Sys2Proof/Laws/State.lean ====
section
/-! SUPPORT. One lemma per field per update of the state. -/

namespace Sys2Proof.Machine

variable (s : State)

@[simp] theorem memWrite_cmdPending (a : Nat) (v : Byte) : (memWrite a v s).cmdPending = s.cmdPending := rfl
@[simp] theorem memWrite_cmdOp (a : Nat) (v : Byte) : (memWrite a v s).cmdOp = s.cmdOp := rfl
@[simp] theorem memWrite_inBuf (a : Nat) (v : Byte) : (memWrite a v s).inBuf = s.inBuf := rfl
@[simp] theorem memWrite_inLen (a : Nat) (v : Byte) : (memWrite a v s).inLen = s.inLen := rfl
@[simp] theorem memWrite_status (a : Nat) (v : Byte) : (memWrite a v s).status = s.status := rfl
@[simp] theorem memWrite_outBuf (a : Nat) (v : Byte) : (memWrite a v s).outBuf = Memory.write s.outBuf a v := rfl
@[simp] theorem memWrite_outLen (a : Nat) (v : Byte) : (memWrite a v s).outLen = s.outLen := rfl
@[simp] theorem memWrite_decCode (a : Nat) (v : Byte) : (memWrite a v s).decCode = s.decCode := rfl
@[simp] theorem memWrite_decOvf (a : Nat) (v : Byte) : (memWrite a v s).decOvf = s.decOvf := rfl
@[simp] theorem memWrite_decOnes (a : Nat) (v : Byte) : (memWrite a v s).decOnes = s.decOnes := rfl
@[simp] theorem memWrite_decZeros (a : Nat) (v : Byte) : (memWrite a v s).decZeros = s.decZeros := rfl
@[simp] theorem memWrite_decHv (a : Nat) (v : Byte) : (memWrite a v s).decHv = s.decHv := rfl
@[simp] theorem memWrite_decHeld (a : Nat) (v : Byte) : (memWrite a v s).decHeld = s.decHeld := rfl
@[simp] theorem memWrite_decOutcnt (a : Nat) (v : Byte) : (memWrite a v s).decOutcnt = s.decOutcnt := rfl
@[simp] theorem memWrite_inDraw (a : Nat) (v : Byte) : (memWrite a v s).inDraw = s.inDraw := rfl
@[simp] theorem memWrite_outDraw (a : Nat) (v : Byte) : (memWrite a v s).outDraw = s.outDraw := rfl
@[simp] theorem memWrite_instanceNo (a : Nat) (v : Byte) : (memWrite a v s).instanceNo = s.instanceNo := rfl

@[simp] theorem openOut_cmdPending : (openOut s).cmdPending = s.cmdPending := rfl
@[simp] theorem openOut_cmdOp : (openOut s).cmdOp = s.cmdOp := rfl
@[simp] theorem openOut_inBuf : (openOut s).inBuf = s.inBuf := rfl
@[simp] theorem openOut_inLen : (openOut s).inLen = s.inLen := rfl
@[simp] theorem openOut_status : (openOut s).status = s.status := rfl
@[simp] theorem openOut_outBuf : (openOut s).outBuf = [] := rfl
@[simp] theorem openOut_outLen : (openOut s).outLen = s.outLen := rfl
@[simp] theorem openOut_decCode : (openOut s).decCode = s.decCode := rfl
@[simp] theorem openOut_decOvf : (openOut s).decOvf = s.decOvf := rfl
@[simp] theorem openOut_decOnes : (openOut s).decOnes = s.decOnes := rfl
@[simp] theorem openOut_decZeros : (openOut s).decZeros = s.decZeros := rfl
@[simp] theorem openOut_decHv : (openOut s).decHv = s.decHv := rfl
@[simp] theorem openOut_decHeld : (openOut s).decHeld = s.decHeld := rfl
@[simp] theorem openOut_decOutcnt : (openOut s).decOutcnt = s.decOutcnt := rfl
@[simp] theorem openOut_inDraw : (openOut s).inDraw = s.inDraw := rfl
@[simp] theorem openOut_outDraw : (openOut s).outDraw = s.outDraw + 1 := rfl
@[simp] theorem openOut_instanceNo : (openOut s).instanceNo = s.instanceNo := rfl

@[simp] theorem setOutLen_cmdPending (n : Word64) : (setOutLen n s).cmdPending = s.cmdPending := rfl
@[simp] theorem setOutLen_cmdOp (n : Word64) : (setOutLen n s).cmdOp = s.cmdOp := rfl
@[simp] theorem setOutLen_inBuf (n : Word64) : (setOutLen n s).inBuf = s.inBuf := rfl
@[simp] theorem setOutLen_inLen (n : Word64) : (setOutLen n s).inLen = s.inLen := rfl
@[simp] theorem setOutLen_status (n : Word64) : (setOutLen n s).status = s.status := rfl
@[simp] theorem setOutLen_outBuf (n : Word64) : (setOutLen n s).outBuf = s.outBuf := rfl
@[simp] theorem setOutLen_outLen (n : Word64) : (setOutLen n s).outLen = n := rfl
@[simp] theorem setOutLen_decCode (n : Word64) : (setOutLen n s).decCode = s.decCode := rfl
@[simp] theorem setOutLen_decOvf (n : Word64) : (setOutLen n s).decOvf = s.decOvf := rfl
@[simp] theorem setOutLen_decOnes (n : Word64) : (setOutLen n s).decOnes = s.decOnes := rfl
@[simp] theorem setOutLen_decZeros (n : Word64) : (setOutLen n s).decZeros = s.decZeros := rfl
@[simp] theorem setOutLen_decHv (n : Word64) : (setOutLen n s).decHv = s.decHv := rfl
@[simp] theorem setOutLen_decHeld (n : Word64) : (setOutLen n s).decHeld = s.decHeld := rfl
@[simp] theorem setOutLen_decOutcnt (n : Word64) : (setOutLen n s).decOutcnt = s.decOutcnt := rfl
@[simp] theorem setOutLen_inDraw (n : Word64) : (setOutLen n s).inDraw = s.inDraw := rfl
@[simp] theorem setOutLen_outDraw (n : Word64) : (setOutLen n s).outDraw = s.outDraw := rfl
@[simp] theorem setOutLen_instanceNo (n : Word64) : (setOutLen n s).instanceNo = s.instanceNo := rfl

@[simp] theorem setResult_cmdPending (r : BitVec 1) : (setResult r s).cmdPending = s.cmdPending := rfl
@[simp] theorem setResult_cmdOp (r : BitVec 1) : (setResult r s).cmdOp = s.cmdOp := rfl
@[simp] theorem setResult_inBuf (r : BitVec 1) : (setResult r s).inBuf = s.inBuf := rfl
@[simp] theorem setResult_inLen (r : BitVec 1) : (setResult r s).inLen = s.inLen := rfl
@[simp] theorem setResult_status (r : BitVec 1) : (setResult r s).status = r := rfl
@[simp] theorem setResult_outBuf (r : BitVec 1) : (setResult r s).outBuf = s.outBuf := rfl
@[simp] theorem setResult_outLen (r : BitVec 1) : (setResult r s).outLen = s.outLen := rfl
@[simp] theorem setResult_decCode (r : BitVec 1) : (setResult r s).decCode = s.decCode := rfl
@[simp] theorem setResult_decOvf (r : BitVec 1) : (setResult r s).decOvf = s.decOvf := rfl
@[simp] theorem setResult_decOnes (r : BitVec 1) : (setResult r s).decOnes = s.decOnes := rfl
@[simp] theorem setResult_decZeros (r : BitVec 1) : (setResult r s).decZeros = s.decZeros := rfl
@[simp] theorem setResult_decHv (r : BitVec 1) : (setResult r s).decHv = s.decHv := rfl
@[simp] theorem setResult_decHeld (r : BitVec 1) : (setResult r s).decHeld = s.decHeld := rfl
@[simp] theorem setResult_decOutcnt (r : BitVec 1) : (setResult r s).decOutcnt = s.decOutcnt := rfl
@[simp] theorem setResult_inDraw (r : BitVec 1) : (setResult r s).inDraw = s.inDraw := rfl
@[simp] theorem setResult_outDraw (r : BitVec 1) : (setResult r s).outDraw = s.outDraw := rfl
@[simp] theorem setResult_instanceNo (r : BitVec 1) : (setResult r s).instanceNo = s.instanceNo := rfl

@[simp] theorem takeCommand_cmdPending : (takeCommand s).cmdPending = false := rfl
@[simp] theorem takeCommand_cmdOp : (takeCommand s).cmdOp = s.cmdOp := rfl
@[simp] theorem takeCommand_inBuf : (takeCommand s).inBuf = s.inBuf := rfl
@[simp] theorem takeCommand_inLen : (takeCommand s).inLen = s.inLen := rfl
@[simp] theorem takeCommand_status : (takeCommand s).status = s.status := rfl
@[simp] theorem takeCommand_outBuf : (takeCommand s).outBuf = s.outBuf := rfl
@[simp] theorem takeCommand_outLen : (takeCommand s).outLen = s.outLen := rfl
@[simp] theorem takeCommand_decCode : (takeCommand s).decCode = s.decCode := rfl
@[simp] theorem takeCommand_decOvf : (takeCommand s).decOvf = s.decOvf := rfl
@[simp] theorem takeCommand_decOnes : (takeCommand s).decOnes = s.decOnes := rfl
@[simp] theorem takeCommand_decZeros : (takeCommand s).decZeros = s.decZeros := rfl
@[simp] theorem takeCommand_decHv : (takeCommand s).decHv = s.decHv := rfl
@[simp] theorem takeCommand_decHeld : (takeCommand s).decHeld = s.decHeld := rfl
@[simp] theorem takeCommand_decOutcnt : (takeCommand s).decOutcnt = s.decOutcnt := rfl
@[simp] theorem takeCommand_inDraw : (takeCommand s).inDraw = s.inDraw := rfl
@[simp] theorem takeCommand_outDraw : (takeCommand s).outDraw = s.outDraw := rfl
@[simp] theorem takeCommand_instanceNo : (takeCommand s).instanceNo = s.instanceNo := rfl

@[simp] theorem writeCmd_cmdPending (op : BitVec 1) : (writeCmd op s).cmdPending = true := rfl
@[simp] theorem writeCmd_cmdOp (op : BitVec 1) : (writeCmd op s).cmdOp = op := rfl
@[simp] theorem writeCmd_inBuf (op : BitVec 1) : (writeCmd op s).inBuf = s.inBuf := rfl
@[simp] theorem writeCmd_inLen (op : BitVec 1) : (writeCmd op s).inLen = s.inLen := rfl
@[simp] theorem writeCmd_status (op : BitVec 1) : (writeCmd op s).status = s.status := rfl
@[simp] theorem writeCmd_outBuf (op : BitVec 1) : (writeCmd op s).outBuf = s.outBuf := rfl
@[simp] theorem writeCmd_outLen (op : BitVec 1) : (writeCmd op s).outLen = s.outLen := rfl
@[simp] theorem writeCmd_decCode (op : BitVec 1) : (writeCmd op s).decCode = s.decCode := rfl
@[simp] theorem writeCmd_decOvf (op : BitVec 1) : (writeCmd op s).decOvf = s.decOvf := rfl
@[simp] theorem writeCmd_decOnes (op : BitVec 1) : (writeCmd op s).decOnes = s.decOnes := rfl
@[simp] theorem writeCmd_decZeros (op : BitVec 1) : (writeCmd op s).decZeros = s.decZeros := rfl
@[simp] theorem writeCmd_decHv (op : BitVec 1) : (writeCmd op s).decHv = s.decHv := rfl
@[simp] theorem writeCmd_decHeld (op : BitVec 1) : (writeCmd op s).decHeld = s.decHeld := rfl
@[simp] theorem writeCmd_decOutcnt (op : BitVec 1) : (writeCmd op s).decOutcnt = s.decOutcnt := rfl
@[simp] theorem writeCmd_inDraw (op : BitVec 1) : (writeCmd op s).inDraw = s.inDraw := rfl
@[simp] theorem writeCmd_outDraw (op : BitVec 1) : (writeCmd op s).outDraw = s.outDraw := rfl
@[simp] theorem writeCmd_instanceNo (op : BitVec 1) : (writeCmd op s).instanceNo = s.instanceNo := rfl

@[simp] theorem scanInit_cmdPending : (scanInit s).cmdPending = s.cmdPending := rfl
@[simp] theorem scanInit_cmdOp : (scanInit s).cmdOp = s.cmdOp := rfl
@[simp] theorem scanInit_inBuf : (scanInit s).inBuf = s.inBuf := rfl
@[simp] theorem scanInit_inLen : (scanInit s).inLen = s.inLen := rfl
@[simp] theorem scanInit_status : (scanInit s).status = s.status := rfl
@[simp] theorem scanInit_outBuf : (scanInit s).outBuf = s.outBuf := rfl
@[simp] theorem scanInit_outLen : (scanInit s).outLen = s.outLen := rfl
@[simp] theorem scanInit_decCode : (scanInit s).decCode = [] := rfl
@[simp] theorem scanInit_decOvf : (scanInit s).decOvf = false := rfl
@[simp] theorem scanInit_decOnes : (scanInit s).decOnes = 0 := rfl
@[simp] theorem scanInit_decZeros : (scanInit s).decZeros = 0 := rfl
@[simp] theorem scanInit_decHv : (scanInit s).decHv = false := rfl
@[simp] theorem scanInit_decHeld : (scanInit s).decHeld = 0#4 := rfl
@[simp] theorem scanInit_decOutcnt : (scanInit s).decOutcnt = 0#64 := rfl
@[simp] theorem scanInit_inDraw : (scanInit s).inDraw = s.inDraw := rfl
@[simp] theorem scanInit_outDraw : (scanInit s).outDraw = s.outDraw := rfl
@[simp] theorem scanInit_instanceNo : (scanInit s).instanceNo = s.instanceNo := rfl

@[simp] theorem setOnes_cmdPending (r : Fin 5) : (setOnes r s).cmdPending = s.cmdPending := rfl
@[simp] theorem setOnes_cmdOp (r : Fin 5) : (setOnes r s).cmdOp = s.cmdOp := rfl
@[simp] theorem setOnes_inBuf (r : Fin 5) : (setOnes r s).inBuf = s.inBuf := rfl
@[simp] theorem setOnes_inLen (r : Fin 5) : (setOnes r s).inLen = s.inLen := rfl
@[simp] theorem setOnes_status (r : Fin 5) : (setOnes r s).status = s.status := rfl
@[simp] theorem setOnes_outBuf (r : Fin 5) : (setOnes r s).outBuf = s.outBuf := rfl
@[simp] theorem setOnes_outLen (r : Fin 5) : (setOnes r s).outLen = s.outLen := rfl
@[simp] theorem setOnes_decCode (r : Fin 5) : (setOnes r s).decCode = s.decCode := rfl
@[simp] theorem setOnes_decOvf (r : Fin 5) : (setOnes r s).decOvf = s.decOvf := rfl
@[simp] theorem setOnes_decOnes (r : Fin 5) : (setOnes r s).decOnes = r := rfl
@[simp] theorem setOnes_decZeros (r : Fin 5) : (setOnes r s).decZeros = s.decZeros := rfl
@[simp] theorem setOnes_decHv (r : Fin 5) : (setOnes r s).decHv = s.decHv := rfl
@[simp] theorem setOnes_decHeld (r : Fin 5) : (setOnes r s).decHeld = s.decHeld := rfl
@[simp] theorem setOnes_decOutcnt (r : Fin 5) : (setOnes r s).decOutcnt = s.decOutcnt := rfl
@[simp] theorem setOnes_inDraw (r : Fin 5) : (setOnes r s).inDraw = s.inDraw := rfl
@[simp] theorem setOnes_outDraw (r : Fin 5) : (setOnes r s).outDraw = s.outDraw := rfl
@[simp] theorem setOnes_instanceNo (r : Fin 5) : (setOnes r s).instanceNo = s.instanceNo := rfl

@[simp] theorem clearCode_cmdPending : (clearCode s).cmdPending = s.cmdPending := rfl
@[simp] theorem clearCode_cmdOp : (clearCode s).cmdOp = s.cmdOp := rfl
@[simp] theorem clearCode_inBuf : (clearCode s).inBuf = s.inBuf := rfl
@[simp] theorem clearCode_inLen : (clearCode s).inLen = s.inLen := rfl
@[simp] theorem clearCode_status : (clearCode s).status = s.status := rfl
@[simp] theorem clearCode_outBuf : (clearCode s).outBuf = s.outBuf := rfl
@[simp] theorem clearCode_outLen : (clearCode s).outLen = s.outLen := rfl
@[simp] theorem clearCode_decCode : (clearCode s).decCode = [] := rfl
@[simp] theorem clearCode_decOvf : (clearCode s).decOvf = false := rfl
@[simp] theorem clearCode_decOnes : (clearCode s).decOnes = s.decOnes := rfl
@[simp] theorem clearCode_decZeros : (clearCode s).decZeros = s.decZeros := rfl
@[simp] theorem clearCode_decHv : (clearCode s).decHv = s.decHv := rfl
@[simp] theorem clearCode_decHeld : (clearCode s).decHeld = s.decHeld := rfl
@[simp] theorem clearCode_decOutcnt : (clearCode s).decOutcnt = s.decOutcnt := rfl
@[simp] theorem clearCode_inDraw : (clearCode s).inDraw = s.inDraw := rfl
@[simp] theorem clearCode_outDraw : (clearCode s).outDraw = s.outDraw := rfl
@[simp] theorem clearCode_instanceNo : (clearCode s).instanceNo = s.instanceNo := rfl

@[simp] theorem holdNibble_cmdPending (n : Nibble) : (holdNibble n s).cmdPending = s.cmdPending := rfl
@[simp] theorem holdNibble_cmdOp (n : Nibble) : (holdNibble n s).cmdOp = s.cmdOp := rfl
@[simp] theorem holdNibble_inBuf (n : Nibble) : (holdNibble n s).inBuf = s.inBuf := rfl
@[simp] theorem holdNibble_inLen (n : Nibble) : (holdNibble n s).inLen = s.inLen := rfl
@[simp] theorem holdNibble_status (n : Nibble) : (holdNibble n s).status = s.status := rfl
@[simp] theorem holdNibble_outBuf (n : Nibble) : (holdNibble n s).outBuf = s.outBuf := rfl
@[simp] theorem holdNibble_outLen (n : Nibble) : (holdNibble n s).outLen = s.outLen := rfl
@[simp] theorem holdNibble_decCode (n : Nibble) : (holdNibble n s).decCode = s.decCode := rfl
@[simp] theorem holdNibble_decOvf (n : Nibble) : (holdNibble n s).decOvf = s.decOvf := rfl
@[simp] theorem holdNibble_decOnes (n : Nibble) : (holdNibble n s).decOnes = s.decOnes := rfl
@[simp] theorem holdNibble_decZeros (n : Nibble) : (holdNibble n s).decZeros = s.decZeros := rfl
@[simp] theorem holdNibble_decHv (n : Nibble) : (holdNibble n s).decHv = true := rfl
@[simp] theorem holdNibble_decHeld (n : Nibble) : (holdNibble n s).decHeld = n := rfl
@[simp] theorem holdNibble_decOutcnt (n : Nibble) : (holdNibble n s).decOutcnt = s.decOutcnt := rfl
@[simp] theorem holdNibble_inDraw (n : Nibble) : (holdNibble n s).inDraw = s.inDraw := rfl
@[simp] theorem holdNibble_outDraw (n : Nibble) : (holdNibble n s).outDraw = s.outDraw := rfl
@[simp] theorem holdNibble_instanceNo (n : Nibble) : (holdNibble n s).instanceNo = s.instanceNo := rfl

@[simp] theorem clearHeld_cmdPending : (clearHeld s).cmdPending = s.cmdPending := rfl
@[simp] theorem clearHeld_cmdOp : (clearHeld s).cmdOp = s.cmdOp := rfl
@[simp] theorem clearHeld_inBuf : (clearHeld s).inBuf = s.inBuf := rfl
@[simp] theorem clearHeld_inLen : (clearHeld s).inLen = s.inLen := rfl
@[simp] theorem clearHeld_status : (clearHeld s).status = s.status := rfl
@[simp] theorem clearHeld_outBuf : (clearHeld s).outBuf = s.outBuf := rfl
@[simp] theorem clearHeld_outLen : (clearHeld s).outLen = s.outLen := rfl
@[simp] theorem clearHeld_decCode : (clearHeld s).decCode = s.decCode := rfl
@[simp] theorem clearHeld_decOvf : (clearHeld s).decOvf = s.decOvf := rfl
@[simp] theorem clearHeld_decOnes : (clearHeld s).decOnes = s.decOnes := rfl
@[simp] theorem clearHeld_decZeros : (clearHeld s).decZeros = s.decZeros := rfl
@[simp] theorem clearHeld_decHv : (clearHeld s).decHv = false := rfl
@[simp] theorem clearHeld_decHeld : (clearHeld s).decHeld = 0#4 := rfl
@[simp] theorem clearHeld_decOutcnt : (clearHeld s).decOutcnt = s.decOutcnt := rfl
@[simp] theorem clearHeld_inDraw : (clearHeld s).inDraw = s.inDraw := rfl
@[simp] theorem clearHeld_outDraw : (clearHeld s).outDraw = s.outDraw := rfl
@[simp] theorem clearHeld_instanceNo : (clearHeld s).instanceNo = s.instanceNo := rfl

@[simp] theorem bumpOutcnt_cmdPending : (bumpOutcnt s).cmdPending = s.cmdPending := rfl
@[simp] theorem bumpOutcnt_cmdOp : (bumpOutcnt s).cmdOp = s.cmdOp := rfl
@[simp] theorem bumpOutcnt_inBuf : (bumpOutcnt s).inBuf = s.inBuf := rfl
@[simp] theorem bumpOutcnt_inLen : (bumpOutcnt s).inLen = s.inLen := rfl
@[simp] theorem bumpOutcnt_status : (bumpOutcnt s).status = s.status := rfl
@[simp] theorem bumpOutcnt_outBuf : (bumpOutcnt s).outBuf = s.outBuf := rfl
@[simp] theorem bumpOutcnt_outLen : (bumpOutcnt s).outLen = s.outLen := rfl
@[simp] theorem bumpOutcnt_decCode : (bumpOutcnt s).decCode = s.decCode := rfl
@[simp] theorem bumpOutcnt_decOvf : (bumpOutcnt s).decOvf = s.decOvf := rfl
@[simp] theorem bumpOutcnt_decOnes : (bumpOutcnt s).decOnes = s.decOnes := rfl
@[simp] theorem bumpOutcnt_decZeros : (bumpOutcnt s).decZeros = s.decZeros := rfl
@[simp] theorem bumpOutcnt_decHv : (bumpOutcnt s).decHv = s.decHv := rfl
@[simp] theorem bumpOutcnt_decHeld : (bumpOutcnt s).decHeld = s.decHeld := rfl
@[simp] theorem bumpOutcnt_decOutcnt : (bumpOutcnt s).decOutcnt = s.decOutcnt + 1#64 := rfl
@[simp] theorem bumpOutcnt_inDraw : (bumpOutcnt s).inDraw = s.inDraw := rfl
@[simp] theorem bumpOutcnt_outDraw : (bumpOutcnt s).outDraw = s.outDraw := rfl
@[simp] theorem bumpOutcnt_instanceNo : (bumpOutcnt s).instanceNo = s.instanceNo := rfl

@[simp] theorem stepOne_cmdPending : (stepOne s).cmdPending = s.cmdPending := rfl
@[simp] theorem stepOne_cmdOp : (stepOne s).cmdOp = s.cmdOp := rfl
@[simp] theorem stepOne_inBuf : (stepOne s).inBuf = s.inBuf := rfl
@[simp] theorem stepOne_inLen : (stepOne s).inLen = s.inLen := rfl
@[simp] theorem stepOne_status : (stepOne s).status = s.status := rfl
@[simp] theorem stepOne_outBuf : (stepOne s).outBuf = s.outBuf := rfl
@[simp] theorem stepOne_outLen : (stepOne s).outLen = s.outLen := rfl
@[simp] theorem stepOne_decCode : (stepOne s).decCode = s.decCode := rfl
@[simp] theorem stepOne_decOvf : (stepOne s).decOvf = s.decOvf := rfl
@[simp] theorem stepOne_decOnes : (stepOne s).decOnes = ⟨min (s.decOnes.val + 1) 4, by omega⟩ := rfl
@[simp] theorem stepOne_decZeros : (stepOne s).decZeros = 0 := rfl
@[simp] theorem stepOne_decHv : (stepOne s).decHv = s.decHv := rfl
@[simp] theorem stepOne_decHeld : (stepOne s).decHeld = s.decHeld := rfl
@[simp] theorem stepOne_decOutcnt : (stepOne s).decOutcnt = s.decOutcnt := rfl
@[simp] theorem stepOne_inDraw : (stepOne s).inDraw = s.inDraw := rfl
@[simp] theorem stepOne_outDraw : (stepOne s).outDraw = s.outDraw := rfl
@[simp] theorem stepOne_instanceNo : (stepOne s).instanceNo = s.instanceNo := rfl

@[simp] theorem bumpZeros_cmdPending : (bumpZeros s).cmdPending = s.cmdPending := rfl
@[simp] theorem bumpZeros_cmdOp : (bumpZeros s).cmdOp = s.cmdOp := rfl
@[simp] theorem bumpZeros_inBuf : (bumpZeros s).inBuf = s.inBuf := rfl
@[simp] theorem bumpZeros_inLen : (bumpZeros s).inLen = s.inLen := rfl
@[simp] theorem bumpZeros_status : (bumpZeros s).status = s.status := rfl
@[simp] theorem bumpZeros_outBuf : (bumpZeros s).outBuf = s.outBuf := rfl
@[simp] theorem bumpZeros_outLen : (bumpZeros s).outLen = s.outLen := rfl
@[simp] theorem bumpZeros_decCode : (bumpZeros s).decCode = s.decCode := rfl
@[simp] theorem bumpZeros_decOvf : (bumpZeros s).decOvf = s.decOvf := rfl
@[simp] theorem bumpZeros_decOnes : (bumpZeros s).decOnes = s.decOnes := rfl
@[simp] theorem bumpZeros_decZeros : (bumpZeros s).decZeros = ⟨min (s.decZeros.val + 1) 3, by omega⟩ := rfl
@[simp] theorem bumpZeros_decHv : (bumpZeros s).decHv = s.decHv := rfl
@[simp] theorem bumpZeros_decHeld : (bumpZeros s).decHeld = s.decHeld := rfl
@[simp] theorem bumpZeros_decOutcnt : (bumpZeros s).decOutcnt = s.decOutcnt := rfl
@[simp] theorem bumpZeros_inDraw : (bumpZeros s).inDraw = s.inDraw := rfl
@[simp] theorem bumpZeros_outDraw : (bumpZeros s).outDraw = s.outDraw := rfl
@[simp] theorem bumpZeros_instanceNo : (bumpZeros s).instanceNo = s.instanceNo := rfl

@[simp] theorem hostWriteIn_cmdPending (a : Nat) (v : Byte) : (hostWriteIn a v s).cmdPending = s.cmdPending := rfl
@[simp] theorem hostWriteIn_cmdOp (a : Nat) (v : Byte) : (hostWriteIn a v s).cmdOp = s.cmdOp := rfl
@[simp] theorem hostWriteIn_inBuf (a : Nat) (v : Byte) : (hostWriteIn a v s).inBuf = Memory.write s.inBuf a v := rfl
@[simp] theorem hostWriteIn_inLen (a : Nat) (v : Byte) : (hostWriteIn a v s).inLen = s.inLen := rfl
@[simp] theorem hostWriteIn_status (a : Nat) (v : Byte) : (hostWriteIn a v s).status = s.status := rfl
@[simp] theorem hostWriteIn_outBuf (a : Nat) (v : Byte) : (hostWriteIn a v s).outBuf = s.outBuf := rfl
@[simp] theorem hostWriteIn_outLen (a : Nat) (v : Byte) : (hostWriteIn a v s).outLen = s.outLen := rfl
@[simp] theorem hostWriteIn_decCode (a : Nat) (v : Byte) : (hostWriteIn a v s).decCode = s.decCode := rfl
@[simp] theorem hostWriteIn_decOvf (a : Nat) (v : Byte) : (hostWriteIn a v s).decOvf = s.decOvf := rfl
@[simp] theorem hostWriteIn_decOnes (a : Nat) (v : Byte) : (hostWriteIn a v s).decOnes = s.decOnes := rfl
@[simp] theorem hostWriteIn_decZeros (a : Nat) (v : Byte) : (hostWriteIn a v s).decZeros = s.decZeros := rfl
@[simp] theorem hostWriteIn_decHv (a : Nat) (v : Byte) : (hostWriteIn a v s).decHv = s.decHv := rfl
@[simp] theorem hostWriteIn_decHeld (a : Nat) (v : Byte) : (hostWriteIn a v s).decHeld = s.decHeld := rfl
@[simp] theorem hostWriteIn_decOutcnt (a : Nat) (v : Byte) : (hostWriteIn a v s).decOutcnt = s.decOutcnt := rfl
@[simp] theorem hostWriteIn_inDraw (a : Nat) (v : Byte) : (hostWriteIn a v s).inDraw = s.inDraw := rfl
@[simp] theorem hostWriteIn_outDraw (a : Nat) (v : Byte) : (hostWriteIn a v s).outDraw = s.outDraw := rfl
@[simp] theorem hostWriteIn_instanceNo (a : Nat) (v : Byte) : (hostWriteIn a v s).instanceNo = s.instanceNo := rfl

@[simp] theorem hostSetInLen_cmdPending (n : Word64) : (hostSetInLen n s).cmdPending = s.cmdPending := rfl
@[simp] theorem hostSetInLen_cmdOp (n : Word64) : (hostSetInLen n s).cmdOp = s.cmdOp := rfl
@[simp] theorem hostSetInLen_inBuf (n : Word64) : (hostSetInLen n s).inBuf = s.inBuf := rfl
@[simp] theorem hostSetInLen_inLen (n : Word64) : (hostSetInLen n s).inLen = n := rfl
@[simp] theorem hostSetInLen_status (n : Word64) : (hostSetInLen n s).status = s.status := rfl
@[simp] theorem hostSetInLen_outBuf (n : Word64) : (hostSetInLen n s).outBuf = s.outBuf := rfl
@[simp] theorem hostSetInLen_outLen (n : Word64) : (hostSetInLen n s).outLen = s.outLen := rfl
@[simp] theorem hostSetInLen_decCode (n : Word64) : (hostSetInLen n s).decCode = s.decCode := rfl
@[simp] theorem hostSetInLen_decOvf (n : Word64) : (hostSetInLen n s).decOvf = s.decOvf := rfl
@[simp] theorem hostSetInLen_decOnes (n : Word64) : (hostSetInLen n s).decOnes = s.decOnes := rfl
@[simp] theorem hostSetInLen_decZeros (n : Word64) : (hostSetInLen n s).decZeros = s.decZeros := rfl
@[simp] theorem hostSetInLen_decHv (n : Word64) : (hostSetInLen n s).decHv = s.decHv := rfl
@[simp] theorem hostSetInLen_decHeld (n : Word64) : (hostSetInLen n s).decHeld = s.decHeld := rfl
@[simp] theorem hostSetInLen_decOutcnt (n : Word64) : (hostSetInLen n s).decOutcnt = s.decOutcnt := rfl
@[simp] theorem hostSetInLen_inDraw (n : Word64) : (hostSetInLen n s).inDraw = s.inDraw := rfl
@[simp] theorem hostSetInLen_outDraw (n : Word64) : (hostSetInLen n s).outDraw = s.outDraw := rfl
@[simp] theorem hostSetInLen_instanceNo (n : Word64) : (hostSetInLen n s).instanceNo = s.instanceNo := rfl

@[simp] theorem setZeros_cmdPending (z : Fin 4) : (setZeros z s).cmdPending = s.cmdPending := rfl
@[simp] theorem setZeros_cmdOp (z : Fin 4) : (setZeros z s).cmdOp = s.cmdOp := rfl
@[simp] theorem setZeros_inBuf (z : Fin 4) : (setZeros z s).inBuf = s.inBuf := rfl
@[simp] theorem setZeros_inLen (z : Fin 4) : (setZeros z s).inLen = s.inLen := rfl
@[simp] theorem setZeros_status (z : Fin 4) : (setZeros z s).status = s.status := rfl
@[simp] theorem setZeros_outBuf (z : Fin 4) : (setZeros z s).outBuf = s.outBuf := rfl
@[simp] theorem setZeros_outLen (z : Fin 4) : (setZeros z s).outLen = s.outLen := rfl
@[simp] theorem setZeros_decCode (z : Fin 4) : (setZeros z s).decCode = s.decCode := rfl
@[simp] theorem setZeros_decOvf (z : Fin 4) : (setZeros z s).decOvf = s.decOvf := rfl
@[simp] theorem setZeros_decOnes (z : Fin 4) : (setZeros z s).decOnes = s.decOnes := rfl
@[simp] theorem setZeros_decZeros (z : Fin 4) : (setZeros z s).decZeros = z := rfl
@[simp] theorem setZeros_decHv (z : Fin 4) : (setZeros z s).decHv = s.decHv := rfl
@[simp] theorem setZeros_decHeld (z : Fin 4) : (setZeros z s).decHeld = s.decHeld := rfl
@[simp] theorem setZeros_decOutcnt (z : Fin 4) : (setZeros z s).decOutcnt = s.decOutcnt := rfl
@[simp] theorem setZeros_inDraw (z : Fin 4) : (setZeros z s).inDraw = s.inDraw := rfl
@[simp] theorem setZeros_outDraw (z : Fin 4) : (setZeros z s).outDraw = s.outDraw := rfl
@[simp] theorem setZeros_instanceNo (z : Fin 4) : (setZeros z s).instanceNo = s.instanceNo := rfl

@[simp] theorem pushSym_cmdPending (x : Sym) : (pushSym x s).cmdPending = s.cmdPending := rfl
@[simp] theorem pushSym_cmdOp (x : Sym) : (pushSym x s).cmdOp = s.cmdOp := rfl
@[simp] theorem pushSym_inBuf (x : Sym) : (pushSym x s).inBuf = s.inBuf := rfl
@[simp] theorem pushSym_inLen (x : Sym) : (pushSym x s).inLen = s.inLen := rfl
@[simp] theorem pushSym_status (x : Sym) : (pushSym x s).status = s.status := rfl
@[simp] theorem pushSym_outBuf (x : Sym) : (pushSym x s).outBuf = s.outBuf := rfl
@[simp] theorem pushSym_outLen (x : Sym) : (pushSym x s).outLen = s.outLen := rfl
@[simp] theorem pushSym_decCode (x : Sym) : (pushSym x s).decCode = s.decCode ++ [x] := rfl
@[simp] theorem pushSym_decOvf (x : Sym) : (pushSym x s).decOvf = s.decOvf := rfl
@[simp] theorem pushSym_decOnes (x : Sym) : (pushSym x s).decOnes = s.decOnes := rfl
@[simp] theorem pushSym_decZeros (x : Sym) : (pushSym x s).decZeros = s.decZeros := rfl
@[simp] theorem pushSym_decHv (x : Sym) : (pushSym x s).decHv = s.decHv := rfl
@[simp] theorem pushSym_decHeld (x : Sym) : (pushSym x s).decHeld = s.decHeld := rfl
@[simp] theorem pushSym_decOutcnt (x : Sym) : (pushSym x s).decOutcnt = s.decOutcnt := rfl
@[simp] theorem pushSym_inDraw (x : Sym) : (pushSym x s).inDraw = s.inDraw := rfl
@[simp] theorem pushSym_outDraw (x : Sym) : (pushSym x s).outDraw = s.outDraw := rfl
@[simp] theorem pushSym_instanceNo (x : Sym) : (pushSym x s).instanceNo = s.instanceNo := rfl

@[simp] theorem setOvf_cmdPending : (setOvf s).cmdPending = s.cmdPending := rfl
@[simp] theorem setOvf_cmdOp : (setOvf s).cmdOp = s.cmdOp := rfl
@[simp] theorem setOvf_inBuf : (setOvf s).inBuf = s.inBuf := rfl
@[simp] theorem setOvf_inLen : (setOvf s).inLen = s.inLen := rfl
@[simp] theorem setOvf_status : (setOvf s).status = s.status := rfl
@[simp] theorem setOvf_outBuf : (setOvf s).outBuf = s.outBuf := rfl
@[simp] theorem setOvf_outLen : (setOvf s).outLen = s.outLen := rfl
@[simp] theorem setOvf_decCode : (setOvf s).decCode = s.decCode := rfl
@[simp] theorem setOvf_decOvf : (setOvf s).decOvf = true := rfl
@[simp] theorem setOvf_decOnes : (setOvf s).decOnes = s.decOnes := rfl
@[simp] theorem setOvf_decZeros : (setOvf s).decZeros = s.decZeros := rfl
@[simp] theorem setOvf_decHv : (setOvf s).decHv = s.decHv := rfl
@[simp] theorem setOvf_decHeld : (setOvf s).decHeld = s.decHeld := rfl
@[simp] theorem setOvf_decOutcnt : (setOvf s).decOutcnt = s.decOutcnt := rfl
@[simp] theorem setOvf_inDraw : (setOvf s).inDraw = s.inDraw := rfl
@[simp] theorem setOvf_outDraw : (setOvf s).outDraw = s.outDraw := rfl
@[simp] theorem setOvf_instanceNo : (setOvf s).instanceNo = s.instanceNo := rfl

@[simp] theorem beginCommand_cmdPending : (beginCommand s).cmdPending = false := rfl
@[simp] theorem beginCommand_cmdOp : (beginCommand s).cmdOp = s.cmdOp := rfl
@[simp] theorem beginCommand_inBuf : (beginCommand s).inBuf = s.inBuf := rfl
@[simp] theorem beginCommand_inLen : (beginCommand s).inLen = s.inLen := rfl
@[simp] theorem beginCommand_status : (beginCommand s).status = s.status := rfl
@[simp] theorem beginCommand_outBuf : (beginCommand s).outBuf = s.outBuf := rfl
@[simp] theorem beginCommand_outLen : (beginCommand s).outLen = s.outLen := rfl
@[simp] theorem beginCommand_decCode : (beginCommand s).decCode = [] := rfl
@[simp] theorem beginCommand_decOvf : (beginCommand s).decOvf = false := rfl
@[simp] theorem beginCommand_decOnes : (beginCommand s).decOnes = 0 := rfl
@[simp] theorem beginCommand_decZeros : (beginCommand s).decZeros = 0 := rfl
@[simp] theorem beginCommand_decHv : (beginCommand s).decHv = false := rfl
@[simp] theorem beginCommand_decHeld : (beginCommand s).decHeld = 0#4 := rfl
@[simp] theorem beginCommand_decOutcnt : (beginCommand s).decOutcnt = 0#64 := rfl
@[simp] theorem beginCommand_inDraw : (beginCommand s).inDraw = s.inDraw := rfl
@[simp] theorem beginCommand_outDraw : (beginCommand s).outDraw = s.outDraw := rfl
@[simp] theorem beginCommand_instanceNo : (beginCommand s).instanceNo = s.instanceNo := rfl

/-! Updates of one register do not interfere. -/

@[simp] theorem scanInit_scanInit : scanInit (scanInit s) = scanInit s := rfl
@[simp] theorem setZeros_setZeros (z z' : Fin 4) : setZeros z (setZeros z' s) = setZeros z s := rfl
@[simp] theorem setOnes_setOnes (r r' : Fin 5) : setOnes r (setOnes r' s) = setOnes r s := rfl
theorem setOnes_setZeros (r : Fin 5) (z : Fin 4) : setOnes r (setZeros z s) = setZeros z (setOnes r s) := rfl
@[simp] theorem setZeros_self : setZeros s.decZeros s = s := rfl
@[simp] theorem setOnes_self : setOnes s.decOnes s = s := rfl

end Sys2Proof.Machine
end

