-- ==== Sys2Proof/Laws/Memory.lean ====
section
/-! SUPPORT. Memory: read after write, and the canonical form is kept by every operation. -/

namespace Sys2Proof.Machine

theorem Memory.read_write (m : Memory) (a b : Nat) (v : Byte) :
    Memory.read (Memory.write m a v) b = if b = a then some v else Memory.read m b := by
  induction m with
  | nil => simp [Memory.write, Memory.read, eq_comm]
  | cons c m ih =>
    obtain ⟨k, w⟩ := c
    simp only [Memory.write]
    split
    · simp [Memory.read, eq_comm]
    · split
      · subst_vars
        simp only [Memory.read, eq_comm]
        split <;> simp_all
      · simp only [Memory.read, ih]
        split
        · subst_vars
          rw [if_neg (by omega)]
        · rfl

@[simp] theorem Memory.read_write_self (m : Memory) (a : Nat) (v : Byte) :
    Memory.read (Memory.write m a v) a = some v := by
  simp [Memory.read_write]

theorem Memory.read_write_other (m : Memory) {a b : Nat} (v : Byte) (h : b ≠ a) :
    Memory.read (Memory.write m a v) b = Memory.read m b := by
  simp [Memory.read_write, h]

/-- Every address listed after a write was listed before or is the one written. -/
theorem Memory.mem_write {m : Memory} {a : Nat} {v : Byte} {c : Host.Cell} (h : c ∈ Memory.write m a v) :
    c.1 = a ∨ c ∈ m := by
  induction m with
  | nil =>
    simp only [Memory.write, List.mem_singleton] at h
    exact .inl (by rw [h])
  | cons d m ih =>
    obtain ⟨k, w⟩ := d
    simp only [Memory.write] at h
    split at h
    · rcases List.mem_cons.1 h with rfl | h
      · exact .inl rfl
      · exact .inr h
    · split at h
      · rcases List.mem_cons.1 h with rfl | h
        · exact .inl rfl
        · exact .inr (List.mem_cons_of_mem _ h)
      · rcases List.mem_cons.1 h with rfl | h
        · exact .inr (by simp)
        · exact (ih h).imp id (List.mem_cons_of_mem _)

@[simp] theorem Memory.wf_nil : Memory.wf [] = true := rfl

theorem Memory.wf_cons (k : Nat) (v : Byte) (m : Memory) :
    Memory.wf ((k, v) :: m) = true ↔ (∀ c ∈ m, k < c.1) ∧ Memory.wf m = true := by
  simp [Memory.wf]

/-- A write keeps the canonical form. -/
theorem Memory.wf_write {m : Memory} (h : Memory.wf m = true) (a : Nat) (v : Byte) :
    Memory.wf (Memory.write m a v) = true := by
  induction m with
  | nil => rfl
  | cons c m ih =>
    obtain ⟨k, w⟩ := c
    rw [Memory.wf_cons] at h
    simp only [Memory.write]
    split
    · rename_i hk
      rw [Memory.wf_cons, Memory.wf_cons]
      refine ⟨fun c hc => ?_, h⟩
      rcases List.mem_cons.1 hc with rfl | hc
      · exact hk
      · exact Nat.lt_trans hk (h.1 c hc)
    · split
      · subst_vars
        rw [Memory.wf_cons]
        exact h
      · rename_i h1 h2
        rw [Memory.wf_cons]
        refine ⟨fun c hc => ?_, ih h.2⟩
        rcases Memory.mem_write hc with h' | h'
        · omega
        · exact h.1 c h'

theorem writeBytes_append (a : Nat) (vs ws : List Byte) (s : State) :
    writeBytes a (vs ++ ws) s = writeBytes (a + vs.length) ws (writeBytes a vs s) := by
  induction vs generalizing a s with
  | nil => rfl
  | cons v vs ih =>
    simp only [List.cons_append, writeBytes, ih, List.length_cons]
    congr 1
    omega

/-- All that `writeBytes` can change is the contents of `OUT`. -/
theorem writeBytes_eq (a : Nat) (vs : List Byte) (s : State) :
    writeBytes a vs s = { s with outBuf := (writeBytes a vs s).outBuf } := by
  induction vs generalizing a s with
  | nil => rfl
  | cons v vs ih =>
    rw [writeBytes, ih]
    rfl

/-- What `OUT` lists after `writeBytes`: the written bytes at their indices, elsewhere what it listed before. -/
theorem read_writeBytes (a b : Nat) (vs : List Byte) (s : State) :
    Memory.read (writeBytes a vs s).outBuf b =
      if h : a ≤ b ∧ b < a + vs.length then some (vs[b - a]'(by omega)) else Memory.read s.outBuf b := by
  induction vs generalizing a s with
  | nil => rw [dif_neg (by simp)]; rfl
  | cons v vs ih =>
    simp only [writeBytes, ih, memWrite_outBuf, Memory.read_write, List.length_cons]
    by_cases hb : b = a
    · subst hb
      rw [dif_neg (by omega), dif_pos (by omega)]
      simp
    · by_cases h : a + 1 ≤ b ∧ b < a + 1 + vs.length
      · rw [dif_pos h, dif_pos (by omega)]
        have : b - a = (b - (a + 1)) + 1 := by omega
        simp [this]
      · rw [dif_neg h, dif_neg (by omega), if_neg hb]

theorem wf_writeBytes {s : State} (h : Memory.wf s.outBuf = true) (a : Nat) (vs : List Byte) :
    Memory.wf (writeBytes a vs s).outBuf = true := by
  induction vs generalizing a s with
  | nil => exact h
  | cons v vs ih => exact ih (Memory.wf_write h a v) _

/-- All that host writes of `IN` can change is the contents of `IN`. -/
theorem hostWriteBytes_eq (a : Nat) (vs : List Byte) (s : State) :
    hostWriteBytes a vs s = { s with inBuf := (hostWriteBytes a vs s).inBuf } := by
  induction vs generalizing a s with
  | nil => rfl
  | cons v vs ih =>
    rw [hostWriteBytes, ih]
    rfl

theorem read_hostWriteBytes (a b : Nat) (vs : List Byte) (s : State) :
    Memory.read (hostWriteBytes a vs s).inBuf b =
      if h : a ≤ b ∧ b < a + vs.length then some (vs[b - a]'(by omega)) else Memory.read s.inBuf b := by
  induction vs generalizing a s with
  | nil => rw [dif_neg (by simp)]; rfl
  | cons v vs ih =>
    simp only [hostWriteBytes, ih, hostWriteIn_inBuf, Memory.read_write, List.length_cons]
    by_cases hb : b = a
    · subst hb
      rw [dif_neg (by omega), dif_pos (by omega)]
      simp
    · by_cases h : a + 1 ≤ b ∧ b < a + 1 + vs.length
      · rw [dif_pos h, dif_pos (by omega)]
        have : b - a = (b - (a + 1)) + 1 := by omega
        simp [this]
      · rw [dif_neg h, dif_neg (by omega), if_neg hb]

theorem wf_hostWriteBytes {s : State} (h : Memory.wf s.inBuf = true) (a : Nat) (vs : List Byte) :
    Memory.wf (hostWriteBytes a vs s).inBuf = true := by
  induction vs generalizing a s with
  | nil => exact h
  | cons v vs ih => exact ih (Memory.wf_write h a v) _

theorem reset_memories_wf : Memory.wf State.reset.inBuf = true ∧ Memory.wf State.reset.outBuf = true := ⟨rfl, rfl⟩

end Sys2Proof.Machine
end

