-- ==== Sys2Proof/Laws/Table.lean ====
section
/-! SUPPORT. Admissible tables: what the Boolean check says, and that the machine's table passes it. -/

namespace Sys2Proof

theorem mem_allNibbles (v : Nibble) : v ∈ allNibbles := by
  revert v
  decide

theorem SymTab.admissible_iff (t : SymTab) :
    SymTab.admissible t = true ↔
      (∀ v, 1 ≤ (t v).length ∧ (t v).length ≤ 4) ∧ (∀ v w, t v = t w → v = w) ∧
        t 0x0#4 = sourceCode0 ∧ t 0xF#4 = sourceCodeF := by
  simp only [SymTab.admissible, SymTab.lengthsOk, SymTab.injectiveOk, SymTab.sourceOk, Code.lengthOk,
    Bool.and_eq_true, List.all_eq_true, decide_eq_true_eq, mem_allNibbles, true_implies, and_assoc]

theorem defaultSymtab_admissible : SymTab.admissible defaultSymtab = true := by decide

theorem withSource_default : withSource defaultSymtab = defaultSymtab := by
  funext v
  revert v
  decide

theorem Config.symtab_admissible : SymTab.admissible Config.symtab = true := by
  unfold Config.symtab
  split
  · assumption
  · rw [withSource_default]
    exact defaultSymtab_admissible

theorem Config.maxInLen_le : Config.maxInLen ≤ 2 ^ 58 := Nat.sub_le _ _

theorem Config.params_admissible : Config.params.admissible := ⟨Config.symtab_admissible, Config.maxInLen_le⟩

theorem inv_eq_some {t : SymTab} (c : Code) (v : Nibble) :
    inv t c = some v → t v = c := by
  intro hv
  simpa using List.find?_some hv

theorem inv_eq_none {t : SymTab} {c : Code} : inv t c = none ↔ ∀ v, t v ≠ c := by
  simp [inv, mem_allNibbles]

end Sys2Proof
end

