-- ==== Sys2Proof/Laws/PerInstr.lean ====
section
/-! SUPPORT. Statements made per instruction: the encoding of every row is a well-formed word of its layer. -/

namespace Sys2Proof.Laws

/-- A code of 1 to 4 symbols renders to 1 to 15 bits that start and end with `1` (R69, R70). -/
theorem render_wf {c : Code} (h : 1 ≤ c.length ∧ c.length ≤ 4) :
    TableWord.wf { format := .nibbleCode, bits := render c } = true := by
  match c, h with
  | [a], _ => cases a <;> rfl
  | [a, b], _ => cases a <;> cases b <;> rfl
  | [a, b, d], _ => cases a <;> cases b <;> cases d <;> rfl
  | [a, b, d, e], _ => cases a <;> cases b <;> cases d <;> cases e <;> rfl
  | _ :: _ :: _ :: _ :: _ :: _, h => simp at h; omega

/-- The word of the instruction is well-formed, under every admissible table. -/
def EncodingWf.Statement (i : Instr) : Prop :=
  ∀ t : SymTab, SymTab.admissible t = true → TableWord.wf (encodeIn t i) = true

theorem EncodingWf.encode : EncodingWf.Statement .encode := fun _ _ => rfl
theorem EncodingWf.decode : EncodingWf.Statement .decode := fun _ _ => rfl
theorem EncodingWf.dot : EncodingWf.Statement .dot := fun _ _ => rfl
theorem EncodingWf.dash : EncodingWf.Statement .dash := fun _ _ => rfl
theorem EncodingWf.gapIntra : EncodingWf.Statement .gapIntra := fun _ _ => rfl
theorem EncodingWf.gapNibble : EncodingWf.Statement .gapNibble := fun _ _ => rfl
theorem EncodingWf.gapByte : EncodingWf.Statement .gapByte := fun _ _ => rfl
theorem EncodingWf.nib0 : EncodingWf.Statement .nib0 := fun t h => render_wf (((SymTab.admissible_iff t).1 h).1 _)
theorem EncodingWf.nib1 : EncodingWf.Statement .nib1 := fun t h => render_wf (((SymTab.admissible_iff t).1 h).1 _)
theorem EncodingWf.nib2 : EncodingWf.Statement .nib2 := fun t h => render_wf (((SymTab.admissible_iff t).1 h).1 _)
theorem EncodingWf.nib3 : EncodingWf.Statement .nib3 := fun t h => render_wf (((SymTab.admissible_iff t).1 h).1 _)
theorem EncodingWf.nib4 : EncodingWf.Statement .nib4 := fun t h => render_wf (((SymTab.admissible_iff t).1 h).1 _)
theorem EncodingWf.nib5 : EncodingWf.Statement .nib5 := fun t h => render_wf (((SymTab.admissible_iff t).1 h).1 _)
theorem EncodingWf.nib6 : EncodingWf.Statement .nib6 := fun t h => render_wf (((SymTab.admissible_iff t).1 h).1 _)
theorem EncodingWf.nib7 : EncodingWf.Statement .nib7 := fun t h => render_wf (((SymTab.admissible_iff t).1 h).1 _)
theorem EncodingWf.nib8 : EncodingWf.Statement .nib8 := fun t h => render_wf (((SymTab.admissible_iff t).1 h).1 _)
theorem EncodingWf.nib9 : EncodingWf.Statement .nib9 := fun t h => render_wf (((SymTab.admissible_iff t).1 h).1 _)
theorem EncodingWf.nibA : EncodingWf.Statement .nibA := fun t h => render_wf (((SymTab.admissible_iff t).1 h).1 _)
theorem EncodingWf.nibB : EncodingWf.Statement .nibB := fun t h => render_wf (((SymTab.admissible_iff t).1 h).1 _)
theorem EncodingWf.nibC : EncodingWf.Statement .nibC := fun t h => render_wf (((SymTab.admissible_iff t).1 h).1 _)
theorem EncodingWf.nibD : EncodingWf.Statement .nibD := fun t h => render_wf (((SymTab.admissible_iff t).1 h).1 _)
theorem EncodingWf.nibE : EncodingWf.Statement .nibE := fun t h => render_wf (((SymTab.admissible_iff t).1 h).1 _)
theorem EncodingWf.nibF : EncodingWf.Statement .nibF := fun t h => render_wf (((SymTab.admissible_iff t).1 h).1 _)

end Sys2Proof.Laws
end

