-- ==== Sys2Proof/Laws/Reads.lean ====
section
/-! SUPPORT. The checked reads of `IN` answer the plain values wherever the index is below `IN_LEN`. -/

namespace Sys2Proof.Machine

theorem memRead_ok {s : State} {a : Nat} (h : a < s.inLen.toNat) : memRead s a = .ok (inByte s a) := if_pos h

theorem readBytes_ok {s : State} (a k : Nat) (h : a + k ≤ s.inLen.toNat) :
    readBytes s a k = .ok ((List.range' a k).map (inByte s)) := by
  induction k generalizing a with
  | zero => rfl
  | succ k ih => simp [readBytes, memRead_ok (s := s) (a := a) (by omega), ih (a + 1) (by omega), List.range'_succ]

/-- ENCODE reads exactly `IN[0 .. IN_LEN-1]` and never faults. -/
theorem encodeOperand_ok (s : State) : encodeOperand s = .ok (inBytes s) := by
  rw [encodeOperand, readBytes_ok (s := s) 0 s.inLen.toNat (by omega), inBytes, List.range_eq_range']

theorem headerCount_ok {s : State} (h : hdrBytes ≤ s.inLen.toNat) : headerCount s = .ok (headerValue s) := by
  simp [headerCount, headerValue, readBytes_ok (s := s) 0 hdrBytes (by omega), List.range_eq_range']

theorem readPayloadBit_ok {s : State} {j : Nat} (h : j < availableBits s) :
    readPayloadBit s j = .ok (payloadBitOf s j) := by
  have : hdrBytes + j / 8 < s.inLen.toNat := by unfold availableBits at h; omega
  simp [readPayloadBit, memRead_ok this, payloadBitOf]

theorem readPayloadBits_ok {s : State} (j k : Nat) (h : j + k ≤ availableBits s) :
    readPayloadBits s j k = .ok ((List.range' j k).map (payloadBitOf s)) := by
  induction k generalizing j with
  | zero => rfl
  | succ k ih =>
    simp [readPayloadBits, readPayloadBit_ok (s := s) (j := j) (by omega), ih (j + 1) (by omega), List.range'_succ]

/-- DECODE's scanned bits are the first `M` payload bits. -/
theorem readPayloadBits_scanCount (s : State) (n : Nat) :
    readPayloadBits s 0 (scanCount n s) = .ok (payloadBits s (scanCount n s)) := by
  have h : 0 + scanCount n s ≤ availableBits s := by
    simp [scanCount]
  rw [readPayloadBits_ok 0 _ h, payloadBits, List.range_eq_range']

@[simp] theorem payloadBits_length (s : State) (k : Nat) : (payloadBits s k).length = k := by simp [payloadBits]

end Sys2Proof.Machine
end

