-- ==== Sys2Proof/Laws/Scanner.lean ====
section
/-! SUPPORT. What each scanner operation can change, said once. -/

namespace Sys2Proof.Machine

@[simp] theorem scanBits_nil (t : SymTab) (s : State) : scanBits t [] s = s := rfl

@[simp] theorem scanBits_cons (t : SymTab) (b : Bool) (bs : Bits) (s : State) :
    scanBits t (b :: bs) s = scanBits t bs (scanBit t b s) := rfl

theorem scanBits_append (t : SymTab) (as bs : Bits) (s : State) :
    scanBits t (as ++ bs) s = scanBits t bs (scanBits t as s) := by
  induction as generalizing s with
  | nil => rfl
  | cons a as ih => exact ih _

@[simp] theorem scanBit_true (t : SymTab) (s : State) : scanBit t true s = stepOne s := rfl

@[simp] theorem scanBit_false (t : SymTab) (s : State) : scanBit t false s = stepZero t s := rfl

/-- All that `Append` can change. -/
theorem append_eq (x : Sym) (s : State) :
    append x s = { s with decCode := (append x s).decCode, decOvf := (append x s).decOvf } := by
  unfold append
  split <;> rfl

/-- All that the end of a run of ones can change; the run counter is 0 after it. -/
theorem endOnes_eq (s : State) :
    endOnes s = { s with decCode := (endOnes s).decCode, decOvf := (endOnes s).decOvf, decOnes := 0 } := by
  unfold endOnes
  split
  · rename_i h
    cases s
    simp_all
  · unfold classify
    split
    · rw [append_eq]; rfl
    · rw [append_eq]; rfl
    · rfl

/-- Everything `Close` can do: the code is cleared, and a resolved nibble is held or completes a byte. -/
theorem close_cases (t : SymTab) (s : State) :
    (resolveCode t s = none ∧ close t s = clearCode s) ∨
    (∃ n, resolveCode t s = some n ∧ s.decHv = false ∧ close t s = holdNibble n (clearCode s)) ∨
    ∃ n, resolveCode t s = some n ∧ s.decHv = true ∧ close t s = emitByte n (clearCode s) := by
  unfold close
  cases hr : resolveCode t s with
  | none => exact .inl ⟨rfl, rfl⟩
  | some n =>
    cases hv : s.decHv with
    | false => exact .inr (.inl ⟨n, rfl, rfl, by simp [takeNibble, hv]⟩)
    | true => exact .inr (.inr ⟨n, rfl, rfl, by simp [takeNibble, hv]⟩)

/-- `Append` reads and writes the code registers only. -/
theorem append_setZeros (x : Sym) (z : Fin 4) (s : State) : append x (setZeros z s) = setZeros z (append x s) := by
  by_cases h : s.decCode.length < 4
  · rw [append, append, if_pos h, if_pos (show (setZeros z s).decCode.length < 4 from h)]; rfl
  · rw [append, append, if_neg h, if_neg (show ¬(setZeros z s).decCode.length < 4 from h)]; rfl

theorem append_setOnes (x : Sym) (r : Fin 5) (s : State) : append x (setOnes r s) = setOnes r (append x s) := by
  by_cases h : s.decCode.length < 4
  · rw [append, append, if_pos h, if_pos (show (setOnes r s).decCode.length < 4 from h)]; rfl
  · rw [append, append, if_neg h, if_neg (show ¬(setOnes r s).decCode.length < 4 from h)]; rfl

@[simp] theorem endOnes_decOnes (s : State) : (endOnes s).decOnes = 0 := by rw [endOnes_eq]

@[simp] theorem endOnes_decZeros (s : State) : (endOnes s).decZeros = s.decZeros := by rw [endOnes_eq]

theorem endOnes_of_zero {s : State} (h : s.decOnes = 0) : endOnes s = s := if_pos h

/-- `Close` reads and writes neither run counter. -/
theorem close_setZeros (t : SymTab) (z : Fin 4) (s : State) : close t (setZeros z s) = setZeros z (close t s) := by
  have h : resolveCode t (setZeros z s) = resolveCode t s := rfl
  simp only [close, h]
  cases resolveCode t s with
  | none => rfl
  | some n =>
    cases hv : s.decHv <;> simp only [takeNibble, clearCode_decHv, setZeros_decHv, hv] <;> rfl

@[simp] theorem close_decOnes (t : SymTab) (s : State) : (close t s).decOnes = s.decOnes := by
  rcases close_cases t s with ⟨_, h⟩ | ⟨n, _, _, h⟩ | ⟨n, _, _, h⟩ <;> rw [h] <;> rfl

@[simp] theorem close_decZeros (t : SymTab) (s : State) : (close t s).decZeros = s.decZeros := by
  rcases close_cases t s with ⟨_, h⟩ | ⟨n, _, _, h⟩ | ⟨n, _, _, h⟩ <;> rw [h] <;> rfl

@[simp] theorem close_decCode (t : SymTab) (s : State) : (close t s).decCode = [] := by
  rcases close_cases t s with ⟨_, h⟩ | ⟨n, _, _, h⟩ | ⟨n, _, _, h⟩ <;> rw [h] <;> rfl

@[simp] theorem close_decOvf (t : SymTab) (s : State) : (close t s).decOvf = false := by
  rcases close_cases t s with ⟨_, h⟩ | ⟨n, _, _, h⟩ | ⟨n, _, _, h⟩ <;> rw [h] <;> rfl

theorem KeepsInputs.refl (s : State) : KeepsInputs s s := ⟨rfl, rfl, rfl, rfl, rfl, rfl⟩

theorem KeepsInputs.trans {s t u : State} (h : KeepsInputs s t) (k : KeepsInputs t u) : KeepsInputs s u :=
  ⟨k.1.trans h.1, k.2.trans h.2, k.3.trans h.3, k.4.trans h.4, k.5.trans h.5, k.6.trans h.6⟩

theorem KeepsResult.refl (s : State) : KeepsResult s s := ⟨rfl, rfl, rfl⟩

theorem KeepsResult.trans {s t u : State} (h : KeepsResult s t) (k : KeepsResult t u) : KeepsResult s u :=
  ⟨k.1.trans h.1, k.2.trans h.2, k.3.trans h.3⟩

/-- The scanner changes neither the inputs nor the result registers. -/
def OutsideScannerKept (s t : State) : Prop := KeepsInputs s t ∧ KeepsResult s t

theorem OutsideScannerKept.refl (s : State) : OutsideScannerKept s s := ⟨.refl s, .refl s⟩

theorem OutsideScannerKept.trans {s t u : State} (h : OutsideScannerKept s t) (k : OutsideScannerKept t u) :
    OutsideScannerKept s u := ⟨h.1.trans k.1, h.2.trans k.2⟩

theorem endOnes_outside (s : State) : OutsideScannerKept s (endOnes s) := by
  rw [endOnes_eq]
  exact ⟨⟨rfl, rfl, rfl, rfl, rfl, rfl⟩, ⟨rfl, rfl, rfl⟩⟩

theorem close_outside (t : SymTab) (s : State) : OutsideScannerKept s (close t s) := by
  rcases close_cases t s with ⟨_, h⟩ | ⟨n, _, _, h⟩ | ⟨n, _, _, h⟩ <;> rw [h] <;>
    exact ⟨⟨rfl, rfl, rfl, rfl, rfl, rfl⟩, ⟨rfl, rfl, rfl⟩⟩

theorem closeAtThird_outside (t : SymTab) (s : State) : OutsideScannerKept s (closeAtThird t s) := by
  unfold closeAtThird
  split
  · exact close_outside t s
  · exact .refl s

theorem stepOne_outside (s : State) : OutsideScannerKept s (stepOne s) :=
  ⟨⟨rfl, rfl, rfl, rfl, rfl, rfl⟩, ⟨rfl, rfl, rfl⟩⟩

theorem stepZero_outside (t : SymTab) (s : State) : OutsideScannerKept s (stepZero t s) :=
  ((endOnes_outside s).trans (closeAtThird_outside t _)).trans ⟨⟨rfl, rfl, rfl, rfl, rfl, rfl⟩, ⟨rfl, rfl, rfl⟩⟩

theorem scanBit_outside (t : SymTab) (b : Bool) (s : State) : OutsideScannerKept s (scanBit t b s) := by
  cases b
  · exact stepZero_outside t s
  · exact stepOne_outside s

theorem scanBits_outside (t : SymTab) (bs : Bits) (s : State) : OutsideScannerKept s (scanBits t bs s) := by
  induction bs generalizing s with
  | nil => exact .refl s
  | cons b bs ih => exact (scanBit_outside t b s).trans (ih _)

theorem dropLoneNibble_outside (s : State) : OutsideScannerKept s (dropLoneNibble s) := by
  unfold dropLoneNibble
  split
  · exact ⟨⟨rfl, rfl, rfl, rfl, rfl, rfl⟩, ⟨rfl, rfl, rfl⟩⟩
  · exact .refl s

theorem endOfStream_outside (t : SymTab) (s : State) : OutsideScannerKept s (endOfStream t s) :=
  ((endOnes_outside s).trans (close_outside t _)).trans (dropLoneNibble_outside _)

end Sys2Proof.Machine
end

