-- ==== Sys2Proof/Tests/Slice0.lean ====
section
/-! SUPPORT. Tests: ill-formed terms that WellFormed refuses, words written out from the opcode table, the spec's own vectors (95_test_vectors.md), and a witness for the hypotheses of every obligation that has any. Expected values are the spec's. -/

namespace Sys2Proof.Tests

open Sys2Proof Sys2Proof.Machine

/-! ## WellFormed refuses ill-formed terms -/

/-- `DEFAULT_SYMTAB` with the entry of `0x1` replaced. -/
def tableWith1 (c : Code) : SymTab := fun v => if v = 0x1#4 then c else defaultSymtab v

/-- `DEFAULT_SYMTAB` with the entries of `0x0` and `0xF` exchanged. -/
def swappedSource : SymTab := fun v =>
  if v = 0x0#4 then sourceCodeF else if v = 0xF#4 then sourceCode0 else defaultSymtab v

theorem test_wf_default : SymTab.admissible defaultSymtab = true := by decide
theorem test_wf_emptyCode : SymTab.lengthsOk (tableWith1 []) = false := by decide
theorem test_wf_fiveSymbols :
    SymTab.lengthsOk (tableWith1 [.dash, .dash, .dash, .dash, .dash]) = false := by decide
theorem test_wf_twiceTheSameCode : SymTab.injectiveOk (tableWith1 [.dot, .dot]) = false := by decide
theorem test_wf_sourceEntries : SymTab.sourceOk swappedSource = false := by decide
theorem test_wf_notAdmissible :
    SymTab.admissible (tableWith1 []) = false ∧ SymTab.admissible (tableWith1 [.dot, .dot]) = false ∧
    SymTab.admissible swappedSource = false := by decide
theorem test_wf_instr :
    Instr.wf (tableWith1 []) .nib1 = false ∧ Instr.wf defaultSymtab .nib1 = true ∧
    Instr.wf (tableWith1 []) .dash = true := by decide
theorem test_wf_commandWord :
    TableWord.wf { format := .command, bits := [] } = false ∧
    TableWord.wf { format := .command, bits := [true, false] } = false ∧
    TableWord.wf { format := .command, bits := [true] } = true := by decide
theorem test_wf_elementWord :
    TableWord.wf { format := .element, bits := [] } = false ∧
    TableWord.wf { format := .element, bits := [true, false] } = false := by decide
theorem test_wf_nibbleWord :
    TableWord.wf { format := .nibbleCode, bits := [] } = false ∧
    TableWord.wf { format := .nibbleCode, bits := [false, true] } = false ∧
    TableWord.wf { format := .nibbleCode, bits := [true, false] } = false ∧
    TableWord.wf { format := .nibbleCode, bits := List.replicate 16 true } = false := by decide

/-! ## Decoding: the words of spec/opcode_table.json, written out bit by bit -/

theorem test_decode_commands :
    decode { format := .command, bits := [false] } = .ok .encode ∧
    decode { format := .command, bits := [true] } = .ok .decode := ⟨rfl, rfl⟩
theorem test_decode_noCommand :
    decode { format := .command, bits := [] } = .error .commandWidth ∧
    decode { format := .command, bits := [false, false] } = .error .commandWidth := ⟨rfl, rfl⟩
theorem test_decode_dot : decode { format := .element, bits := [true] } = .ok .dot := rfl
theorem test_decode_dash : decode { format := .element, bits := [true, true, true] } = .ok .dash := rfl
theorem test_decode_gaps :
    decode { format := .element, bits := [false] } = .ok .gapIntra ∧
    decode { format := .element, bits := [false, false, false] } = .ok .gapNibble ∧
    decode { format := .element, bits := [false, false, false, false, false, false, false] } = .ok .gapByte :=
  ⟨rfl, rfl, rfl⟩
theorem test_decode_noElement :
    decode { format := .element, bits := [true, true] } = .error .unknownElement ∧
    decode { format := .element, bits := [false, false] } = .error .unknownElement ∧
    decode { format := .element, bits := [] } = .error .unknownElement := ⟨rfl, rfl, rfl⟩

/-- The table's words of the sixteen nibble codes; those of 0x1 .. 0xE are those of `DEFAULT_SYMTAB` (R68). -/
theorem test_decode_nibbleCodes_0_7 :
    decodeIn defaultSymtab { format := .nibbleCode, bits := [true] } = .ok .nib0 ∧
    decodeIn defaultSymtab { format := .nibbleCode, bits := [true, true, true] } = .ok .nib1 ∧
    decodeIn defaultSymtab { format := .nibbleCode, bits := [true, false, true] } = .ok .nib2 ∧
    decodeIn defaultSymtab { format := .nibbleCode, bits := [true, false, true, true, true] } = .ok .nib3 ∧
    decodeIn defaultSymtab { format := .nibbleCode, bits := [true, true, true, false, true] } = .ok .nib4 ∧
    decodeIn defaultSymtab { format := .nibbleCode, bits := [true, true, true, false, true, true, true] } = .ok .nib5 ∧
    decodeIn defaultSymtab { format := .nibbleCode, bits := [true, false, true, false, true] } = .ok .nib6 ∧
    decodeIn defaultSymtab { format := .nibbleCode, bits := [true, false, true, false, true, true, true] } = .ok .nib7 := by
  decide
theorem test_decode_nibbleCodes_8_F :
    decodeIn defaultSymtab ⟨.nibbleCode, [true, false, true, true, true, false, true]⟩ = .ok .nib8 ∧
    decodeIn defaultSymtab ⟨.nibbleCode, [true, false, true, true, true, false, true, true, true]⟩ = .ok .nib9 ∧
    decodeIn defaultSymtab ⟨.nibbleCode, [true, true, true, false, true, false, true]⟩ = .ok .nibA ∧
    decodeIn defaultSymtab ⟨.nibbleCode, [true, true, true, false, true, false, true, true, true]⟩ = .ok .nibB ∧
    decodeIn defaultSymtab ⟨.nibbleCode, [true, true, true, false, true, true, true, false, true]⟩ = .ok .nibC ∧
    decodeIn defaultSymtab ⟨.nibbleCode, [true, true, true, false, true, true, true, false, true, true, true]⟩ = .ok .nibD ∧
    decodeIn defaultSymtab ⟨.nibbleCode, [true, false, true, false, true, false, true]⟩ = .ok .nibE ∧
    decodeIn defaultSymtab ⟨.nibbleCode, [true, false, true, false, true, false, true, true, true]⟩ = .ok .nibF := by
  decide
theorem test_decode_unassigned :
    decodeIn defaultSymtab
      { format := .nibbleCode,
        bits := [true, true, true, false, true, true, true, false, true, true, true, false, true, true, true] } =
      .error .unassignedCode ∧
    decodeIn defaultSymtab { format := .nibbleCode, bits := [] } = .error .unassignedCode := by decide
theorem test_decodeTableWord :
    decodeTableWord 8 0 = some .encode ∧ decodeTableWord 8 1 = some .decode ∧ decodeTableWord 8 2 = none ∧
    decodeTableWord 0 0 = none := ⟨rfl, rfl, rfl, rfl⟩

/-! ## Rendering and lookup: 95_test_vectors.md V-S1 .. V-S10 -/

theorem test_render :
    render [.dot] = [true] ∧ render [.dash] = [true, true, true] ∧
    render [.dot, .dot, .dot, .dash] = [true, false, true, false, true, false, true, true, true] ∧
    (render [.dash, .dash, .dash, .dash]).length = 15 := by decide
theorem test_inv :
    inv defaultSymtab [.dot] = some 0x0#4 ∧ inv defaultSymtab [.dot, .dot, .dot, .dash] = some 0xF#4 ∧
    inv defaultSymtab [] = none ∧ inv defaultSymtab [.dot, .dot, .dot, .dot, .dot] = none ∧
    inv defaultSymtab [.dash, .dash, .dash, .dash] = none ∧
    inv defaultSymtab [.dot, .dot, .dot, .dot] = some 0xE#4 := by decide

/-! ## Commands: 95_test_vectors.md V-E and V-D -/

/-- Status and result bytes of an outcome; none where there is no result. -/
def result : Host.Outcome State Fault Refusal → Option (BitVec 1 × List Byte)
  | .next t => some (t.status, outBytes t)
  | .fault _ => none
  | .refused _ => none

/-- `ENCODE [bs]` right after reset, with `DEFAULT_SYMTAB`. -/
def runEncode (bs : List Byte) : Option (BitVec 1 × List Byte) :=
  result (encodeWith { symtab := defaultSymtab, maxInLen := 2 ^ 58 } (hostLoad bs State.reset))

/-- `DECODE [bs]` right after reset, with `DEFAULT_SYMTAB`. -/
def runDecode (bs : List Byte) : Option (BitVec 1 × List Byte) :=
  result (decodeWith defaultSymtab (hostLoad bs State.reset))

/-- V-E1: empty input. -/
theorem test_encode_E1 :
    runEncode [] = some (0#1, [0x00, 0x00, 0x00, 0x00, 0x00, 0x00, 0x00, 0x00]) := by
  decide
/-- V-E4: the high nibble's code comes first. -/
theorem test_encode_E4 :
    runEncode [0xF0] = some (0#1, [0x0D, 0x00, 0x00, 0x00, 0x00, 0x00, 0x00, 0x00, 0xAB, 0x88]) := by
  decide
/-- V-E13: table-dependent. -/
theorem test_encode_E13 :
    runEncode [0x12, 0x34] = some (0#1, [0x1D, 0x00, 0x00, 0x00, 0x00, 0x00, 0x00, 0x00, 0xE2, 0x80, 0xB8, 0xE8]) := by
  decide
/-- V-D2: seven bytes. -/
theorem test_decode_D2 :
    runDecode [0x05, 0x00, 0x00, 0x00, 0x00, 0x00, 0x00] = some (1#1, []) := by
  decide
/-- V-D6: more bits claimed than held. -/
theorem test_decode_D6 :
    runDecode [0xFF, 0xFF, 0xFF, 0xFF, 0xFF, 0xFF, 0xFF, 0xFF, 0x88] = some (0#1, [0x00]) := by
  decide
set_option maxRecDepth 4000 in
/-- V-D16: a run of two ones is skipped. -/
theorem test_decode_D16 :
    runDecode [0x12, 0x00, 0x00, 0x00, 0x00, 0x00, 0x00, 0x00, 0xC4, 0x04, 0x40] = some (0#1, [0x00]) := by
  decide
set_option maxRecDepth 4000 in
/-- V-D22: the pairing shifts after a lost code. -/
theorem test_decode_D22 :
    runDecode [0x35, 0x00, 0x00, 0x00, 0x00, 0x00, 0x00, 0x00, 0xCA, 0xB8, 0x0A, 0xB8, 0x80, 0x8A, 0xB8] = some (0#1, [0xFF, 0x00]) := by
  decide
/-- V-D24: high nibble, then low nibble. -/
theorem test_decode_D24 :
    runDecode [0x0D, 0x00, 0x00, 0x00, 0x00, 0x00, 0x00, 0x00, 0x8A, 0xB8] = some (0#1, [0x0F]) := by
  decide

/-- The inner loop's value for V-E9: `FF FF` gives 49 bits (90_conflicts.md C2). -/
theorem test_pattern_FFFF : (pattern defaultSymtab [0xFF, 0xFF]).length = 49 := by decide

/-- R85: an input longer than `MAX_IN_LEN` is refused. -/
theorem test_encode_refused :
    encodeWith { symtab := defaultSymtab, maxInLen := 0 } (hostLoad [0x00] State.reset) = .refused .inLenBeyondMax := rfl

/-! ## The elements and the nibble codes (R56, R57, R92-R96) -/

/-- A state in which one dot has been read and its run of ones has ended. -/
def afterDot : State := { State.reset with decCode := [.dot], decZeros := 1 }

/-- A state in which the code `.` is complete but for its last run of ones, with the nibble `0xF` held. -/
def heldF : State := { State.reset with decOnes := 1, decHv := true, decHeld := 0xF#4 }

theorem test_dot : exec .dot afterDot = .next { afterDot with decZeros := 0, decOnes := 1 } := rfl
theorem test_dash : exec .dash afterDot = .next { afterDot with decZeros := 0, decOnes := 3 } := rfl
theorem test_dash_saturates :
    exec .dash { afterDot with decOnes := 2 } = .next { afterDot with decZeros := 0, decOnes := 4 } := rfl
theorem test_gapIntra_classifies :
    exec .gapIntra { State.reset with decOnes := 3 } = .next { State.reset with decCode := [.dash], decZeros := 1 } := rfl
theorem test_gapIntra_skips :
    exec .gapIntra { State.reset with decOnes := 4 } = .next { State.reset with decZeros := 1 } := rfl

/-- R96 with a lookup that needs only the source's entry: the byte `0xF0` is emitted at index 0. -/
theorem test_gapNibble_emits :
    scanBits defaultSymtab gapNibbleBits heldF =
      { State.reset with decZeros := 3, decOutcnt := 1#64, outBuf := [(0, 0xF0)] } := by decide
theorem test_gapByte_emits :
    scanBits defaultSymtab gapByteBits heldF =
      { State.reset with decZeros := 3, decOutcnt := 1#64, outBuf := [(0, 0xF0)] } := by decide
theorem test_gapByte_dropsUnassigned :
    scanBits defaultSymtab gapByteBits
        { State.reset with decCode := [.dash, .dash, .dash, .dash], decHv := true, decHeld := 0x3#4 } =
      { State.reset with decZeros := 3, decHv := true, decHeld := 0x3#4 } := by decide

/-- Every code of the table, followed by a gap, is held as its nibble. -/
theorem test_nibbleCodes : ∀ v : Fin 16,
    scanBits defaultSymtab (render (defaultSymtab (BitVec.ofFin v)) ++ gapNibbleBits) State.reset =
      { State.reset with decZeros := 3, decHv := true, decHeld := BitVec.ofFin v } := by decide

/-- The arms of the nibble codes read the nibble they name. -/
theorem test_nibbleArms (s : State) :
    exec .nib0 s = .next (scanNibble 0x0#4 s) ∧ exec .nib1 s = .next (scanNibble 0x1#4 s) ∧
    exec .nib2 s = .next (scanNibble 0x2#4 s) ∧ exec .nib3 s = .next (scanNibble 0x3#4 s) ∧
    exec .nib4 s = .next (scanNibble 0x4#4 s) ∧ exec .nib5 s = .next (scanNibble 0x5#4 s) ∧
    exec .nib6 s = .next (scanNibble 0x6#4 s) ∧ exec .nib7 s = .next (scanNibble 0x7#4 s) ∧
    exec .nib8 s = .next (scanNibble 0x8#4 s) ∧ exec .nib9 s = .next (scanNibble 0x9#4 s) ∧
    exec .nibA s = .next (scanNibble 0xA#4 s) ∧ exec .nibB s = .next (scanNibble 0xB#4 s) ∧
    exec .nibC s = .next (scanNibble 0xC#4 s) ∧ exec .nibD s = .next (scanNibble 0xD#4 s) ∧
    exec .nibE s = .next (scanNibble 0xE#4 s) ∧ exec .nibF s = .next (scanNibble 0xF#4 s) :=
  ⟨rfl, rfl, rfl, rfl, rfl, rfl, rfl, rfl, rfl, rfl, rfl, rfl, rfl, rfl, rfl, rfl⟩

/-! ## Steps, the host port, notation -/

theorem test_step_idle : step State.reset = .next State.reset := rfl
theorem test_step_decode :
    step (State.reset.withFetchWord 8 1) =
      .next { State.reset with cmdOp := 1#1, status := 1#1, outDraw := 1 } := rfl
set_option maxRecDepth 4000 in
theorem test_host_roundTrip :
    result (match encodeWith { symtab := defaultSymtab, maxInLen := 2 ^ 58 } (hostLoad [0x41] State.reset) with
      | .next t => decodeWith defaultSymtab (hostCopyOutToIn t)
      | o => o) = some (0#1, [0x41]) := by decide
/-- R122: a nibble that an earlier DECODE left held plays no part in a later command. -/
theorem test_step_reinitialises :
    step (writeCmd 1#1 heldF) = step (writeCmd 1#1 { heldF with decHv := false, decHeld := 0#4, decOnes := 0 }) := rfl
theorem test_host_noAccess : hostRead .decHeld State.reset = none ∧ hostRead .cmdOp State.reset = none := ⟨rfl, rfl⟩
/-- R61: the host actions of `DECODE [05]`. -/
theorem test_commandActions :
    commandActions 1#1 [0x05] = [.writeIn 0#64 0x05, .setInLen 1#64, .issue 1#1] := by decide
/-- R62's example. -/
theorem test_showPattern : showPattern defaultSymtab [0xFF, 0xFF] = "...- ...- / ...- ...-" := by decide
/-- R61's example. -/
theorem test_showCommand : showCommand 0#1 [0x00] = "ENCODE [00]" := by decide
theorem test_runs :
    runs [true, true, false, true] = [(true, 2), (false, 1), (true, 1)] ∧ runs [] = [] := by decide

/-! ## Witnesses: the hypotheses of each obligation that has any are met, clause by clause, at the ends of their ranges -/

/-- The parameters of the vectors. -/
def vectorParams : Params := { symtab := defaultSymtab, maxInLen := 2 ^ 58 }

/-- `DECODE [05 00 00 00 00 00 00 00 88]`, loaded (V-W6). -/
def loadedW6 : State := hostLoad [0x05, 0, 0, 0, 0, 0, 0, 0, 0x88] State.reset

/-- The same stream with padding bits set and a surplus byte (R102's examples). -/
def loadedW6Padded : State := hostLoad [0x05, 0, 0, 0, 0, 0, 0, 0, 0x8F, 0xFF] State.reset

/-- An input of eight bytes, the least that DECODE scans. -/
def loaded8 : State := hostLoad [0, 0, 0, 0, 0, 0, 0, 0] State.reset

/-- An input of seven bytes, the most that DECODE rejects. -/
def loaded7 : State := hostLoad [0x05, 0, 0, 0, 0, 0, 0] State.reset

theorem vectorParams_admissible : vectorParams.admissible := ⟨defaultSymtab_admissible, Nat.le_refl _⟩

theorem witness_DecodeInvertsEncode : SymTab.admissible defaultSymtab = true := by decide

theorem witness_EncodeInvertsDecode :
    decodeIn defaultSymtab { format := .command, bits := [true] } = .ok .decode ∧
    decodeIn defaultSymtab { format := .element, bits := [true, true, true] } = .ok .dash ∧
    decodeIn defaultSymtab { format := .nibbleCode, bits := [true, true, true] } = .ok .nib1 := by decide

theorem witness_RenderIsElementsSeparatedByGaps : ([.dot] : Code) ≠ [] := by decide

theorem witness_RenderInjective : render [.dash] = render [.dash] := rfl

theorem witness_RenderedLength :
    ([.dot] : Code) ≠ [] ∧ 1 ≤ ([.dot] : Code).length ∧ ([.dash, .dash, .dash, .dash] : Code).length ≤ 4 ∧
    SymTab.admissible defaultSymtab = true := by decide

theorem witness_MachineTableIsAdmissible : Config.symtab 0x0#4 = Config.symtab 0x0#4 := rfl

theorem witness_InverseLookup : SymTab.admissible defaultSymtab = true := by decide

theorem witness_InverseProperties :
    SymTab.admissible defaultSymtab = true ∧ 5 ≤ ([.dot, .dot, .dot, .dot, .dot] : Code).length := by decide

theorem witness_HeaderIsLittleEndian :
    2 ^ 64 - 1 < 2 ^ 64 ∧ 0 < 8 ∧ 7 < 8 ∧ (List.replicate 8 (0xFF : Byte)).length = 8 := by decide

/-- `P = 10001`: bit 4 is the last pattern bit, bits 5 and 7 the first and the last padding bit. -/
theorem witness_PackingIsMsbFirstZeroPadded :
    4 < ([true, false, false, false, true] : Bits).length ∧ ([true, false, false, false, true] : Bits).length ≤ 5 ∧
    7 < 8 * ((([true, false, false, false, true] : Bits).length + 7) / 8) := by decide

theorem witness_EncodeComputesPattern :
    EncodeAdmitted Config.params State.reset ∧ EncodeAdmitted vectorParams loadedW6 :=
  ⟨Nat.zero_le _, by show 9 ≤ 2 ^ 58; decide⟩

theorem witness_PatternLengthFormula : ([0x00] : List Byte) ≠ [] := by decide

theorem witness_PatternLengthBounds : SymTab.admissible defaultSymtab = true ∧ ([0x00] : List Byte) ≠ [] := by decide

/-- The runs of `10001`: both clauses about runs have a case (and `G7` where there are two bytes). -/
theorem witness_PatternGrammar :
    SymTab.admissible defaultSymtab = true ∧ ([0x00] : List Byte) ≠ [] ∧
    (true, 1) ∈ runs (pattern defaultSymtab [0x00]) ∧ (true, 3) ∈ runs (pattern defaultSymtab [0x11]) ∧
    (false, 1) ∈ runs (pattern defaultSymtab [0x22]) ∧ (false, 3) ∈ runs (pattern defaultSymtab [0x00]) ∧
    (false, 7) ∈ runs (pattern defaultSymtab [0x00, 0x00]) := by decide

/-- `ENCODE` of nine bytes under `DEFAULT_SYMTAB`: the payload has bytes 0 and 1, so the payload clause has cases; the
machine's own parameters admit the empty input. -/
theorem witness_EncodeResult :
    vectorParams.admissible ∧ EncodeAdmitted vectorParams loadedW6 ∧
    1 < ((pattern vectorParams.symtab (inBytes loadedW6)).length + 7) / 8 ∧ 0 < 8 ∧ 7 < 8 ∧
    Config.params.admissible ∧ EncodeAdmitted Config.params State.reset :=
  ⟨vectorParams_admissible, by show 9 ≤ 2 ^ 58; decide, by decide, by decide, by decide, Config.params_admissible,
    Nat.zero_le _⟩

theorem witness_EncodeHeaderHoldsBitCount : vectorParams.admissible ∧ EncodeAdmitted vectorParams loadedW6 :=
  ⟨vectorParams_admissible, by show 9 ≤ 2 ^ 58; decide⟩

theorem witness_EncodeRefusedBeyondMax :
    Config.maxInLen < (hostSetInLen (BitVec.ofNat 64 (2 ^ 58 + 1)) State.reset).inLen.toNat :=
  Nat.lt_of_le_of_lt Config.maxInLen_le (by decide)

theorem witness_EncodeWorkedExamples : vectorParams.admissible ∧ 2 ≤ vectorParams.maxInLen :=
  ⟨vectorParams_admissible, by show 2 ≤ 2 ^ 58; decide⟩

theorem witness_DecodeTruncatedHeader : State.reset.inLen.toNat < 8 ∧ loaded7.inLen.toNat < 8 := by decide

theorem witness_DecodeScansTruncatedPayload :
    8 ≤ loaded8.inLen.toNat ∧ 8 ≤ loadedW6.inLen.toNat ∧
    5 = min (((List.range 8).map fun k => (inByte loadedW6 k).toNat * 2 ^ (8 * k)).sum)
          (8 * (loadedW6.inLen.toNat - 8)) := by decide

theorem witness_DecodeIsClosedForm : 8 ≤ loaded8.inLen.toNat ∧ 8 ≤ loadedW6.inLen.toNat := by decide

theorem witness_DecodeOutputBound :
    8 ≤ loadedW6.inLen.toNat ∧ 5 = min (headerValue loadedW6) (8 * (loadedW6.inLen.toNat - 8)) := by decide

theorem witness_DecodeIgnoresPaddingAndSurplus :
    8 ≤ loadedW6.inLen.toNat ∧ 8 ≤ loadedW6Padded.inLen.toNat ∧
    payloadBits loadedW6 (scanCount (headerValue loadedW6) loadedW6) =
      payloadBits loadedW6Padded (scanCount (headerValue loadedW6Padded) loadedW6Padded) ∧
    headerValue loadedW6 = 5 ∧ headerValue loadedW6Padded = 5 ∧ 8 + (5 + 7) / 8 ≤ loadedW6.inLen.toNat ∧
    8 + (5 + 7) / 8 ≤ loadedW6Padded.inLen.toNat ∧ payloadBits loadedW6 5 = payloadBits loadedW6Padded 5 ∧
    Completes (exec .decode loadedW6) :=
  ⟨by decide, by decide, by decide, by decide, by decide, by decide, by decide, by decide, _, rfl⟩

theorem witness_EncodeDecodeRoundTrip :
    vectorParams.admissible ∧ ([0x00] : List Byte).length ≤ vectorParams.maxInLen ∧
    ([] : List Byte).length ≤ Config.maxInLen :=
  ⟨vectorParams_admissible, by show 1 ≤ 2 ^ 58; decide, Nat.zero_le _⟩

theorem witness_TrailingZerosDoNotMatter : SymTab.admissible defaultSymtab = true := by decide

theorem witness_GapWidthDoesNotMatter : 3 ≤ 3 ∧ 3 ≤ 7 := by decide

/-- One state for each way a GAP_INTRA goes: no run of ones, a run of ones, the third zero. -/
theorem witness_GapIntraIsOneZero :
    State.reset.decOnes = 0 ∧ State.reset.decZeros.val ≠ 2 ∧ heldF.decOnes ≠ 0 ∧
    ({ heldF with decZeros := 2 } : State).decZeros.val = 2 := by decide

theorem witness_GapNibbleAndGapByteCloseOnce :
    heldF.decZeros ≠ 3 ∧ heldF.decOnes ≠ 0 ∧ ({ State.reset with decZeros := 3 } : State).decZeros = 3 := by decide

theorem witness_OnesRunReading : State.reset.decOnes = 0 ∧ 1 ≤ 1 := by decide

/-- A run of zeros at the start of a stream, and one after a run of ones. -/
theorem witness_ZerosRunReading :
    State.reset.decZeros = 0 ∧ State.reset.decOnes = 0 ∧ heldF.decZeros = 0 ∧ heldF.decOnes ≠ 0 ∧ 3 ≤ 3 := by decide

theorem witness_ClassifyReading :
    heldF.decOnes = 1 ∧ ({ heldF with decOnes := 3 } : State).decOnes = 3 ∧
    State.reset.decOnes ≠ 1 ∧ State.reset.decOnes ≠ 3 ∧ ({ heldF with decOnes := 2 } : State).decOnes ≠ 1 ∧
    ({ heldF with decOnes := 4 } : State).decOnes ≠ 3 := by decide

theorem witness_BoundedCodeResolvesLikeUnbounded :
    State.reset.decCode = [] ∧ State.reset.decOvf = false ∧ (List.replicate 4 Sym.dot).length ≤ 4 ∧
    5 ≤ (List.replicate 5 Sym.dot).length ∧ SymTab.admissible defaultSymtab = true := by decide

/-- A close of a code the table lacks, of one with no nibble held, and of one with a nibble held. -/
theorem witness_CloseEffect :
    (none : Option Nibble) = (if State.reset.decOvf = true then none else inv defaultSymtab State.reset.decCode) ∧
    some 0x0#4 = (if afterDot.decOvf = true then none else inv defaultSymtab afterDot.decCode) ∧
    afterDot.decHv = false ∧ ({ afterDot with decHv := true, decHeld := 0xF#4 } : State).decHv = true ∧
    ({ afterDot with decOutcnt := BitVec.ofNat 64 (2 ^ 64 - 2) } : State).decOutcnt.toNat + 1 < 2 ^ 64 := by decide

/-- The end of a stream with a nibble held, and of one with none. -/
theorem witness_EndOfStreamDropsLoneNibble :
    (close defaultSymtab (classify { heldF with decHv := false, decHeld := 0#4 })).decHv = true ∧
    (close defaultSymtab (classify heldF)).decHv = false ∧ State.reset.decHv = false ∧
    State.reset.decHeld = 0#4 := by decide

theorem witness_NibbleCodesComplete :
    Instr.nib0.nibble? = some 0x0#4 ∧ Instr.nibF.nibble? = some 0xF#4 ∧ State.reset.decOnes = 0 ∧
    State.reset.decCode = [] ∧ State.reset.decOvf = false ∧
    (Config.symtab 0x3#4).getLast?.isSome = true :=
  ⟨rfl, rfl, rfl, rfl, rfl, by
    have h := (((SymTab.admissible_iff _).1 Config.symtab_admissible).1 0x3#4).1
    cases hc : Config.symtab 0x3#4 with
    | nil => rw [hc] at h; exact absurd h (by decide)
    | cons a c => rfl⟩

/-- A fresh code with a nibble held, and with none. -/
theorem witness_NibbleCodeReadsBackAsItsNibble :
    Instr.nib3.nibble? = some 0x3#4 ∧ State.reset.decOnes = 0 ∧ State.reset.decCode = [] ∧
    State.reset.decOvf = false ∧ State.reset.decHv = false ∧
    ({ State.reset with decHv := true, decHeld := 0xF#4 } : State).decHv = true := by decide

theorem witness_ElementFrame :
    isCommand .gapByte = false ∧ Completes (exec .gapByte heldF) ∧ isCommand .dot = false ∧
    Completes (exec .dot State.reset) ∧ Instr.nib7.nibble?.isSome = true ∧ Completes (exec .nib7 State.reset) :=
  ⟨rfl, ⟨_, rfl⟩, rfl, ⟨_, rfl⟩, rfl, ⟨_, rfl⟩⟩

/-- The stream of the one element DOT: header 1, payload `80`. -/
theorem witness_DecodeRunsTheElementsOfItsStream :
    (∀ i ∈ [Instr.dot], isCommand i = false) ∧
    8 ≤ (hostLoad [0x01, 0, 0, 0, 0, 0, 0, 0, 0x80] State.reset).inLen.toNat ∧
    payloadBits (hostLoad [0x01, 0, 0, 0, 0, 0, 0, 0, 0x80] State.reset)
        (scanCount (headerValue (hostLoad [0x01, 0, 0, 0, 0, 0, 0, 0, 0x80] State.reset))
          (hostLoad [0x01, 0, 0, 0, 0, 0, 0, 0, 0x80] State.reset)) =
      streamBits [Instr.dot] := by
  refine ⟨by decide, by decide, ?_⟩
  show _ = [true]
  decide

theorem witness_MemWriteSetsOneByte : Memory.wf State.reset.outBuf = true := rfl

/-- ENCODE of the empty input completes whatever `MAX_IN_LEN` is. -/
theorem encode_reset_completes : Completes (exec .encode State.reset) := by
  show Completes (encodeWith Config.params State.reset)
  rw [encodeWith, if_neg (show ¬ Config.params.maxInLen < State.reset.inLen.toNat from Nat.not_lt_zero _)]
  exact ⟨_, rfl⟩

/-- Both commands complete; the result of V-W8 has the last written index 7. -/
theorem witness_CommandsWriteExactlyTheResult :
    isCommand .encode = true ∧ isCommand .decode = true ∧ Completes (exec .encode State.reset) ∧
    Completes (exec .decode loadedW6) ∧ (7#64 : Word64) < 8#64 ∧ ¬ (8#64 : Word64) < 8#64 :=
  ⟨rfl, rfl, encode_reset_completes, ⟨_, rfl⟩, by decide, by decide⟩

theorem witness_StatusTellsTheOutcome :
    Completes (exec .encode State.reset) ∧ Completes (exec .decode loaded7) ∧ loaded7.inLen.toNat < 8 ∧
    Completes (exec .decode loaded8) ∧ 8 ≤ loaded8.inLen.toNat :=
  ⟨encode_reset_completes, ⟨_, rfl⟩, by decide, ⟨_, rfl⟩, by decide⟩

/-- Two states with the same input and different scanners and results. -/
theorem witness_ResultDependsOnlyOnInput :
    SameInput loadedW6 { loadedW6 with status := 1#1, decHv := true, decHeld := 0x3#4, outBuf := [(0, 0x55)] } ∧
    Completes (exec .decode loadedW6) ∧ SameInput State.reset { State.reset with outLen := 3#64 } ∧
    Completes (exec .encode State.reset) :=
  ⟨⟨rfl, fun _ _ => rfl⟩, ⟨_, rfl⟩, ⟨rfl, fun _ _ => rfl⟩, encode_reset_completes⟩

theorem witness_BlockWritesOnlyWhatItMay :
    Completes (exec .encode State.reset) ∧ Completes (exec .decode loaded8) ∧ isCommand .dash = false ∧
    Completes (exec .dash State.reset) :=
  ⟨encode_reset_completes, ⟨_, rfl⟩, rfl, ⟨_, rfl⟩⟩

/-- Index 8 is the last one below `IN_LEN = 9`, index 9 the first one beyond it. -/
theorem witness_HostWritesOnlyWhatItMay :
    (8#64 : Word64) < loadedW6.inLen ∧ ¬ (9#64 : Word64) < loadedW6.inLen ∧
    (0#64 : Word64) < ({ State.reset with outLen := 1#64 } : State).outLen ∧
    ¬ (0#64 : Word64) < State.reset.outLen := by decide

theorem witness_ResetLeavesBuffersUnspecified : 0 < Config.instances := by
  unfold Config.instances
  omega

theorem witness_ResetValues : State.reset = State.reset ∨ ∃ s, State.reset = hostReset s := .inl rfl

theorem witness_IdleInstanceKeepsItsState : State.reset.cmdPending = false := rfl

theorem witness_StepRunsTheDecodedCommand :
    (writeCmd 1#1 State.reset).cmdPending = true ∧
    decode { format := .command, bits := [(writeCmd 1#1 State.reset).cmdOp.getLsbD 0] } = .ok .decode ∧
    decode { format := .command, bits := [(writeCmd 0#1 State.reset).cmdOp.getLsbD 0] } = .ok .encode ∧
    decodeTableWord 8 0 = some .encode ∧ decodeTableWord 8 1 = some .decode := ⟨rfl, rfl, rfl, rfl, rfl⟩

/-- An ENCODE and a failing DECODE, each started with a nibble still held. -/
theorem witness_CommandsStartFromOneInternalState :
    (writeCmd 0#1 heldF).cmdPending = true ∧ (writeCmd 0#1 heldF).cmdOp = 0#1 ∧
    Completes (step (writeCmd 0#1 heldF)) ∧ (writeCmd 1#1 heldF).inLen.toNat < 8 ∧
    Completes (step (writeCmd 1#1 heldF)) := by
  refine ⟨rfl, rfl, ?_, by decide, ⟨_, rfl⟩⟩
  show Completes (encodeWith Config.params (beginCommand (writeCmd 0#1 heldF)))
  rw [encodeWith, if_neg (show ¬ Config.params.maxInLen < (beginCommand (writeCmd 0#1 heldF)).inLen.toNat from
    Nat.not_lt_zero _)]
  exact ⟨_, rfl⟩

/-- The right side of the equivalence can hold. -/
theorem witness_OnlyLongEncodeIsRefused :
    (writeCmd 0#1 (hostSetInLen (BitVec.ofNat 64 (2 ^ 58 + 1)) State.reset)).cmdPending = true ∧
    (writeCmd 0#1 (hostSetInLen (BitVec.ofNat 64 (2 ^ 58 + 1)) State.reset)).cmdOp = 0#1 ∧
    Config.maxInLen < (writeCmd 0#1 (hostSetInLen (BitVec.ofNat 64 (2 ^ 58 + 1)) State.reset)).inLen.toNat :=
  ⟨rfl, rfl, Nat.lt_of_le_of_lt Config.maxInLen_le (by decide)⟩

/-- The reset state has the invariant (here as the witness of InvariantIsKept's hypothesis), and both an instruction,
a step and a host action run from it. -/
theorem witness_InvariantIsKept :
    StateInv State.reset ∧ Completes (exec .gapNibble State.reset) ∧ Completes (step State.reset) ∧
    Completes (hostAct (.writeIn 0#64 0x41) State.reset) :=
  ⟨⟨rfl, rfl, by decide, by decide, by decide, by decide, fun _ h => absurd h (Nat.not_lt_zero _), by decide⟩,
    ⟨_, rfl⟩, ⟨_, rfl⟩, ⟨_, rfl⟩⟩

/-- Two instances, an action on each. -/
def twoInstances : System := { instances := [State.reset, State.reset] }

theorem witness_InstancesAreIndependent :
    (0 : Nat) ≠ 1 ∧ ∃ A B C, twoInstances.act 0 (.setInLen 1#64) = .next A ∧ A.act 1 (.setInLen 2#64) = .next B ∧
      twoInstances.act 1 (.setInLen 2#64) = .next C := ⟨by decide, _, _, _, rfl, rfl, rfl⟩

end Sys2Proof.Tests
end

section
/-! PROOFS. The start of a command: what a step with a pending command runs, and which commands leave the scanner
registers as the start put them. -/

namespace Sys2Proof.Machine

theorem KeepsScanner.trans {s t u : State} (h : KeepsScanner s t) (k : KeepsScanner t u) : KeepsScanner s u where
  decCode := k.decCode.trans h.decCode
  decOvf := k.decOvf.trans h.decOvf
  decOnes := k.decOnes.trans h.decOnes
  decZeros := k.decZeros.trans h.decZeros
  decHv := k.decHv.trans h.decHv
  decHeld := k.decHeld.trans h.decHeld
  decOutcnt := k.decOutcnt.trans h.decOutcnt

theorem step_of_pending {s : State} (h : s.cmdPending = true) :
    step s = exec (decodeOp s.cmdOp) (beginCommand s) := if_pos h

theorem exec_decodeOp_zero (s : State) : exec (decodeOp 0#1) s = encodeWith Config.params s := rfl

theorem exec_decodeOp_one (s : State) : exec (decodeOp 1#1) s = decodeWith Config.symtab s := rfl

/-- ENCODE's only way to complete (R73, R77): the frame of the pattern is written. -/
theorem eq_writeFrame_of_encodeWith {p : Params} {s t : State} (h : encodeWith p s = .next t) :
    t = writeFrame (encodeLoop p.symtab 0 (inBytes s) []) s := by
  unfold encodeWith at h
  split at h
  · cases h
  · rw [encodeOperand_ok] at h
    exact (Host.Outcome.next.inj h).symm

/-- DECODE of an input shorter than the header is exactly the failure (R87). -/
theorem decodeWith_of_short {t : SymTab} {s : State} (h : s.inLen.toNat < hdrBytes) :
    decodeWith t s = .next (raiseTruncatedHeader s) := if_pos h

theorem scanInit_keepsScanner_beginCommand (s : State) : KeepsScanner (scanInit s) (beginCommand s) :=
  ⟨rfl, rfl, rfl, rfl, rfl, rfl, rfl⟩

theorem writeFrame_keepsScanner (P : Bits) (s : State) : KeepsScanner s (writeFrame P s) := by
  rw [writeFrame, writeBytes_eq]
  exact ⟨rfl, rfl, rfl, rfl, rfl, rfl, rfl⟩

theorem raiseTruncatedHeader_keepsScanner (s : State) : KeepsScanner s (raiseTruncatedHeader s) :=
  ⟨rfl, rfl, rfl, rfl, rfl, rfl, rfl⟩

/-- An ENCODE, and a DECODE without a whole header, write no scanner register (R27, R112). -/
theorem exec_decodeOp_keepsScanner {op : BitVec 1} {s t : State} (hop : op = 0#1 ∨ s.inLen.toNat < hdrBytes)
    (h : exec (decodeOp op) s = .next t) : KeepsScanner s t := by
  rcases BitVec.eq_zero_or_eq_one op with rfl | rfl
  · rw [exec_decodeOp_zero] at h
    rw [eq_writeFrame_of_encodeWith h]
    exact writeFrame_keepsScanner _ s
  · have hshort : s.inLen.toNat < hdrBytes := hop.resolve_left (by decide)
    rw [exec_decodeOp_one, decodeWith_of_short hshort] at h
    obtain rfl := Host.Outcome.next.inj h
    exact raiseTruncatedHeader_keepsScanner s

/-- The command's start overwrites all seven scanner registers, so their old values drop out (R16, R122). -/
theorem beginCommand_of_scanner_registers (s : State) (c : Code) (o : Bool) (r : Fin 5) (z : Fin 4) (v : Bool)
    (h : Nibble) (n : Word64) :
    beginCommand { s with decCode := c, decOvf := o, decOnes := r, decZeros := z, decHv := v, decHeld := h,
                          decOutcnt := n } = beginCommand s := rfl

/-- Settles O51: a step runs its command from `beginCommand`, where the old scanner registers drop out, and an ENCODE or
a failed DECODE writes none of them after it. -/
theorem commandsStartFromOneInternalState : Obligations.CommandsStartFromOneInternalState := by
  refine ⟨fun _ => rfl, fun s c o r z v h n hpend => ?_, fun s t hpend hcmd hstep => ?_⟩
  · rw [step_of_pending hpend, step_of_pending (by exact hpend), beginCommand_of_scanner_registers]
  · rw [step_of_pending hpend] at hstep
    exact (scanInit_keepsScanner_beginCommand s).trans (exec_decodeOp_keepsScanner hcmd hstep)

end Sys2Proof.Machine
end

section
/-! PROOFS. What every instruction does, said once: the outcomes of `exec`, and what each outcome leaves unchanged. -/

namespace Sys2Proof.Machine

/-- An element or nibble code completes in every state: the scanner reads the row's bits (log 2). -/
theorem exec_of_not_isCommand {i : Instr} (hi : isCommand i = false) (s : State) :
    exec i s = .next (scanBits Config.symtab (instrBits i) s) := by
  cases i with
  | encode | decode => cases hi
  | _ => rfl

/-- ENCODE completes exactly for an admitted input, and writes the frame of the loop's pattern (R73, R77, R85). -/
theorem encodeWith_eq_next_iff {p : Params} {s t : State} :
    encodeWith p s = .next t ↔ EncodeAdmitted p s ∧ t = writeFrame (encodeLoop p.symtab 0 (inBytes s) []) s := by
  constructor
  · intro h
    refine ⟨?_, eq_writeFrame_of_encodeWith h⟩
    by_contra hlong
    rw [encodeWith, if_pos (Nat.not_le.1 hlong)] at h
    cases h
  · rintro ⟨hadm, rfl⟩
    rw [encodeWith, if_neg (Nat.not_lt.2 hadm), encodeOperand_ok]

/-- DECODE of an input with a whole header scans the first `M` payload bits (R88-R90). -/
theorem decodeWith_of_header {t : SymTab} {s : State} (h : hdrBytes ≤ s.inLen.toNat) :
    decodeWith t s = .next (decodeScan t (payloadBits s (scanCount (headerValue s) s)) s) := by
  simp [decodeWith, Nat.not_lt.2 h, headerCount_ok h, readPayloadBits_scanCount]

/-- All that an instruction which completes can have done. -/
theorem exec_cases {i : Instr} {s t : State} (h : exec i s = .next t) :
    (i = .encode ∧ EncodeAdmitted Config.params s ∧
      t = writeFrame (encodeLoop Config.params.symtab 0 (inBytes s) []) s) ∨
    (i = .decode ∧ s.inLen.toNat < hdrBytes ∧ t = raiseTruncatedHeader s) ∨
    (i = .decode ∧ hdrBytes ≤ s.inLen.toNat ∧
      t = decodeScan Config.symtab (payloadBits s (scanCount (headerValue s) s)) s) ∨
    (isCommand i = false ∧ t = scanBits Config.symtab (instrBits i) s) := by
  cases hi : isCommand i with
  | false =>
    rw [exec_of_not_isCommand hi] at h
    exact .inr (.inr (.inr ⟨rfl, (Host.Outcome.next.inj h).symm⟩))
  | true =>
    cases i with
    | encode =>
      change encodeWith Config.params s = .next t at h
      exact .inl ⟨rfl, encodeWith_eq_next_iff.1 h⟩
    | decode =>
      change decodeWith Config.symtab s = .next t at h
      rcases Nat.lt_or_ge s.inLen.toNat hdrBytes with hlen | hlen
      · rw [decodeWith_of_short hlen] at h
        exact .inr (.inl ⟨rfl, hlen, (Host.Outcome.next.inj h).symm⟩)
      · rw [decodeWith_of_header hlen] at h
        exact .inr (.inr (.inl ⟨rfl, hlen, (Host.Outcome.next.inj h).symm⟩))
    | _ => cases hi

/-! The result registers and the frame of each outcome. -/

theorem writeFrame_outBuf (P : Bits) (s : State) :
    (writeFrame P s).outBuf = (writeBytes 0 (frameBytes P) (openOut s)).outBuf := rfl

@[simp] theorem writeFrame_outLen (P : Bits) (s : State) :
    (writeFrame P s).outLen = BitVec.ofNat 64 (hdrBytes + ceil8 P.length) := rfl

@[simp] theorem writeFrame_status (P : Bits) (s : State) : (writeFrame P s).status = resultOk := rfl

theorem writeFrame_keepsInputs (P : Bits) (s : State) : KeepsInputs s (writeFrame P s) := by
  rw [writeFrame, writeBytes_eq]
  exact ⟨rfl, rfl, rfl, rfl, rfl, rfl⟩

@[simp] theorem raiseTruncatedHeader_outBuf (s : State) : (raiseTruncatedHeader s).outBuf = [] := rfl

@[simp] theorem raiseTruncatedHeader_outLen (s : State) : (raiseTruncatedHeader s).outLen = 0#64 := rfl

@[simp] theorem raiseTruncatedHeader_status (s : State) :
    (raiseTruncatedHeader s).status = resultTruncatedHeader := rfl

theorem raiseTruncatedHeader_keepsInputs (s : State) : KeepsInputs s (raiseTruncatedHeader s) :=
  ⟨rfl, rfl, rfl, rfl, rfl, rfl⟩

theorem decodeScan_outBuf (t : SymTab) (bits : Bits) (s : State) :
    (decodeScan t bits s).outBuf = (endOfStream t (scanBits t bits (scanInit (openOut s)))).outBuf := rfl

theorem decodeScan_outLen (t : SymTab) (bits : Bits) (s : State) :
    (decodeScan t bits s).outLen = (endOfStream t (scanBits t bits (scanInit (openOut s)))).decOutcnt := rfl

@[simp] theorem decodeScan_status (t : SymTab) (bits : Bits) (s : State) :
    (decodeScan t bits s).status = resultOk := rfl

theorem decodeScan_keepsInputs (t : SymTab) (bits : Bits) (s : State) : KeepsInputs s (decodeScan t bits s) := by
  have hopen : KeepsInputs s (scanInit (openOut s)) := ⟨rfl, rfl, rfl, rfl, rfl, rfl⟩
  have hscan : KeepsInputs (scanInit (openOut s)) (scanBits t bits (scanInit (openOut s))) :=
    (scanBits_outside t bits _).1
  have hend := (endOfStream_outside t (scanBits t bits (scanInit (openOut s)))).1
  exact ((hopen.trans hscan).trans hend).trans ⟨rfl, rfl, rfl, rfl, rfl, rfl⟩

/-- No instruction writes `CMD`, `IN` or `IN_LEN` (R27). -/
theorem exec_keepsInputs {i : Instr} {s t : State} (h : exec i s = .next t) : KeepsInputs s t := by
  rcases exec_cases h with ⟨-, -, rfl⟩ | ⟨-, -, rfl⟩ | ⟨-, -, rfl⟩ | ⟨-, rfl⟩
  · exact writeFrame_keepsInputs _ s
  · exact raiseTruncatedHeader_keepsInputs s
  · exact decodeScan_keepsInputs _ _ s
  · exact (scanBits_outside _ _ s).1

/-- Settles O45: the inputs by `exec_keepsInputs`; ENCODE keeps the scanner because `writeFrame` does, and the rows of
the scanner keep the result registers because `scanBits` does. -/
theorem blockWritesOnlyWhatItMay : Obligations.BlockWritesOnlyWhatItMay := by
  intro i s t h
  refine ⟨exec_keepsInputs h, fun hi => ?_, fun hi => ?_⟩
  · subst hi
    rw [eq_writeFrame_of_encodeWith h]
    exact writeFrame_keepsScanner _ s
  · rw [exec_of_not_isCommand hi] at h
    obtain rfl := Host.Outcome.next.inj h
    exact (scanBits_outside _ _ s).2

/-- Settles O43: the status of each way a command can complete. -/
theorem statusTellsTheOutcome : Obligations.StatusTellsTheOutcome := by
  refine ⟨fun s t h => ?_, fun s t h => ⟨fun hshort => ?_, fun hlong => ?_⟩⟩
  · rw [eq_writeFrame_of_encodeWith h]
    exact writeFrame_status _ s
  · obtain rfl := Host.Outcome.next.inj ((decodeWith_of_short hshort).symm.trans h)
    exact raiseTruncatedHeader_status s
  · obtain rfl := Host.Outcome.next.inj ((decodeWith_of_header hlong).symm.trans h)
    exact decodeScan_status _ _ s

end Sys2Proof.Machine
end

section
/-! PROOFS. What the scanner stores in `OUT`: ones and rendered codes store nothing, and a run of zeros closes a code at
most once. -/

namespace Sys2Proof.Machine

/-- `OUT` and the count of its bytes are unchanged. -/
structure OutKept (s t : State) : Prop where
  outBuf    : t.outBuf = s.outBuf
  decOutcnt : t.decOutcnt = s.decOutcnt

theorem OutKept.refl (s : State) : OutKept s s := ⟨rfl, rfl⟩

theorem OutKept.trans {s t u : State} (h : OutKept s t) (k : OutKept t u) : OutKept s u :=
  ⟨k.outBuf.trans h.outBuf, k.decOutcnt.trans h.decOutcnt⟩

/-- At most one byte is stored, at index `DEC_OUTCNT`, and only when a nibble is held (R96). -/
structure StoresOnlyHeld (s t : State) : Prop where
  other   : ∀ a, a ≠ s.decOutcnt.toNat → outByte t a = outByte s a
  notHeld : s.decHv = false → OutKept s t

theorem outByte_eq_of_outBuf {s t : State} (h : OutsideScannerKept s t) (hout : t.outBuf = s.outBuf) (a : Nat) :
    outByte t a = outByte s a := by
  rw [outByte, outByte, hout, h.1.instanceNo, h.2.outDraw]

theorem OutKept.storesOnlyHeld {s t : State} (h : OutKept s t) (hs : OutsideScannerKept s t) : StoresOnlyHeld s t :=
  ⟨fun a _ => outByte_eq_of_outBuf hs h.outBuf a, fun _ => h⟩

theorem stepOne_outKept (s : State) : OutKept s (stepOne s) := ⟨rfl, rfl⟩

theorem endOnes_outKept (s : State) : OutKept s (endOnes s) := by
  rw [endOnes_eq]
  exact ⟨rfl, rfl⟩

@[simp] theorem endOnes_decHv (s : State) : (endOnes s).decHv = s.decHv := by rw [endOnes_eq]

/-- `Close` stores the held nibble's byte or nothing. -/
theorem close_storesOnlyHeld (t : SymTab) (s : State) : StoresOnlyHeld s (close t s) := by
  rcases close_cases t s with ⟨-, h⟩ | ⟨n, -, -, h⟩ | ⟨n, -, hv, h⟩ <;> rw [h]
  · exact ⟨fun _ _ => rfl, fun _ => ⟨rfl, rfl⟩⟩
  · exact ⟨fun _ _ => rfl, fun _ => ⟨rfl, rfl⟩⟩
  · refine ⟨fun a ha => ?_, fun hv' => absurd (hv.symm.trans hv') (by decide)⟩
    simp [outByte, emitByte, Memory.read_write_other _ _ ha]

/-- The zero counter is no part of what is stored. -/
theorem StoresOnlyHeld.setZeros {s t : State} (h : StoresOnlyHeld s t) (z : Fin 4) :
    StoresOnlyHeld s (setZeros z t) :=
  ⟨h.other, fun hv => (h.notHeld hv).trans ⟨rfl, rfl⟩⟩

/-- The end of a run of ones before it stores nothing and keeps the held nibble. -/
theorem StoresOnlyHeld.of_endOnes {s t : State} (h : StoresOnlyHeld (endOnes s) t) : StoresOnlyHeld s t := by
  have hend := endOnes_outKept s
  refine ⟨fun a ha => ?_, fun hv => hend.trans (h.notHeld (by simpa using hv))⟩
  rw [h.other a (by rwa [hend.decOutcnt]), outByte_eq_of_outBuf (endOnes_outside s) hend.outBuf]

/-! A run of zeros: R93's step, iterated. -/

theorem stepZero_of_decOnes_zero (t : SymTab) {s : State} (h : s.decOnes = 0) :
    stepZero t s = bumpZeros (closeAtThird t s) := by
  rw [stepZero, endOnes_of_zero h]

/-- The first zero ends the run of ones; for the rest it was not there. -/
theorem scanBits_zeros_endOnes (t : SymTab) (k : Nat) (s : State) :
    scanBits t (List.replicate (k + 1) false) s = scanBits t (List.replicate (k + 1) false) (endOnes s) := by
  simp [List.replicate_succ, stepZero, endOnes_of_zero (endOnes_decOnes s)]

/-- A run of `k` zeros after no ones closes the code exactly where it makes the third zero (R57, R93). -/
theorem scanBits_zeros (t : SymTab) (k : Nat) {s : State} (h : s.decOnes = 0) :
    scanBits t (List.replicate k false) s =
      setZeros ⟨min (s.decZeros.val + k) 3, by omega⟩
        (if s.decZeros.val ≤ 2 ∧ 3 ≤ s.decZeros.val + k then close t s else s) := by
  induction k generalizing s with
  | zero =>
    have hz : (⟨min (s.decZeros.val + 0) 3, by omega⟩ : Fin 4) = s.decZeros := Fin.ext (by simp; omega)
    rw [if_neg (by omega), hz]
    rfl
  | succ k ih =>
    have hstep : scanBits t (List.replicate (k + 1) false) s =
        scanBits t (List.replicate k false) (bumpZeros (closeAtThird t s)) := by
      rw [← stepZero_of_decOnes_zero t h]
      rfl
    rw [hstep]
    by_cases hz : s.decZeros.val = 2
    · rw [closeAtThird, if_pos hz, if_pos (by omega), ih (by simpa using h)]
      rw [bumpZeros, if_neg (by simp [hz]), setZeros_setZeros]
      congr 1
      exact Fin.ext (by simp [hz]; omega)
    · rw [closeAtThird, if_neg hz, ih (by simpa using h)]
      by_cases hc : s.decZeros.val ≤ 2 ∧ 3 ≤ s.decZeros.val + (k + 1)
      · rw [if_pos hc, if_pos (by simp; omega), bumpZeros, close_setZeros, setZeros_setZeros]
        congr 1
        exact Fin.ext (by simp; omega)
      · rw [if_neg hc, if_neg (by simp; omega), bumpZeros, setZeros_setZeros]
        congr 1
        exact Fin.ext (by simp; omega)

/-- A run of zeros stores at most one byte. -/
theorem scanBits_zeros_storesOnlyHeld (t : SymTab) (k : Nat) (s : State) :
    StoresOnlyHeld s (scanBits t (List.replicate (k + 1) false) s) := by
  rw [scanBits_zeros_endOnes, scanBits_zeros t _ (endOnes_decOnes s)]
  apply StoresOnlyHeld.setZeros
  split
  · exact (close_storesOnlyHeld t (endOnes s)).of_endOnes
  · exact (endOnes_outKept s).storesOnlyHeld (endOnes_outside s)

/-! Codes: ones, and single zeros between them. -/

/-- The element of a symbol stores nothing and leaves no zeros counted (R92). -/
theorem scanBits_symBits_outKept (t : SymTab) (x : Sym) (s : State) :
    OutKept s (scanBits t (symBits x) s) ∧ (scanBits t (symBits x) s).decZeros = 0 := by
  cases x with
  | dot => exact ⟨stepOne_outKept s, rfl⟩
  | dash => exact ⟨((stepOne_outKept s).trans (stepOne_outKept _)).trans (stepOne_outKept _), rfl⟩

/-- The first zero after a one closes nothing. -/
theorem scanBits_gapIntra_outKept (t : SymTab) {s : State} (h : s.decZeros = 0) :
    OutKept s (scanBits t gapIntraBits s) := by
  have hz : ¬ (endOnes s).decZeros.val = 2 := by simp [h]
  change OutKept s (bumpZeros (closeAtThird t (endOnes s)))
  rw [closeAtThird, if_neg hz]
  exact (endOnes_outKept s).trans ⟨rfl, rfl⟩

/-- A rendered code stores nothing: it never has a third zero (R69). -/
theorem scanBits_render_outKept (t : SymTab) (c : Code) (s : State) : OutKept s (scanBits t (render c) s) := by
  induction c using render.induct generalizing s with
  | case1 => exact .refl s
  | case2 x => exact (scanBits_symBits_outKept t x s).1
  | case3 x y c ih =>
    rw [render, scanBits_append, scanBits_append]
    obtain ⟨hsym, hzeros⟩ := scanBits_symBits_outKept t x s
    exact (hsym.trans (scanBits_gapIntra_outKept t hzeros)).trans (ih _)

/-! The rows of the opcode table that the scanner reads. -/

/-- DOT, DASH and the nibble codes are rendered codes. -/
theorem instrBits_eq_render {i : Instr} (h : i = .dot ∨ i = .dash ∨ i.nibble?.isSome = true) :
    ∃ c, instrBits i = render c := by
  cases i with
  | encode | decode | gapIntra | gapNibble | gapByte => simp [Instr.nibble?] at h
  | dot => exact ⟨[.dot], rfl⟩
  | dash => exact ⟨[.dash], rfl⟩
  | _ => exact ⟨Config.symtab _, rfl⟩

/-- The other rows of the scanner are runs of zeros (R53). -/
theorem instrBits_eq_zeros {i : Instr} (hi : isCommand i = false)
    (h : ¬ (i = .dot ∨ i = .dash ∨ i.nibble?.isSome = true)) :
    ∃ k, instrBits i = List.replicate (k + 1) false := by
  cases i with
  | encode | decode => cases hi
  | gapIntra => exact ⟨0, rfl⟩
  | gapNibble => exact ⟨2, rfl⟩
  | gapByte => exact ⟨6, rfl⟩
  | _ => exact absurd h (by simp [Instr.nibble?])

/-- Settles O39: a code's row stores nothing (`scanBits_render_outKept`), a gap closes at most once
(`scanBits_zeros_storesOnlyHeld`). -/
theorem elementFrame : Obligations.ElementFrame := by
  intro i s t hi h
  rw [exec_of_not_isCommand hi] at h
  obtain rfl := Host.Outcome.next.inj h
  have houtside := scanBits_outside Config.symtab (instrBits i) s
  have hcode (hrow : i = .dot ∨ i = .dash ∨ i.nibble?.isSome = true) :
      OutKept s (scanBits Config.symtab (instrBits i) s) := by
    obtain ⟨c, hc⟩ := instrBits_eq_render hrow
    exact hc ▸ scanBits_render_outKept Config.symtab c s
  have hstores : StoresOnlyHeld s (scanBits Config.symtab (instrBits i) s) := by
    by_cases hrow : i = .dot ∨ i = .dash ∨ i.nibble?.isSome = true
    · exact (hcode hrow).storesOnlyHeld houtside
    · obtain ⟨k, hk⟩ := instrBits_eq_zeros hi hrow
      exact hk ▸ scanBits_zeros_storesOnlyHeld Config.symtab k s
  refine ⟨houtside.1, houtside.2, hstores.other, fun hv => ?_, fun hrow => ?_⟩
  · exact ⟨(hstores.notHeld hv).outBuf, (hstores.notHeld hv).decOutcnt⟩
  · exact ⟨(hcode hrow).outBuf, (hcode hrow).decOutcnt⟩

end Sys2Proof.Machine
end

section
/-! PROOFS. How long the two results can be: the bits of ENCODE's pattern, and the bytes of a DECODE. -/

namespace Sys2Proof.Machine

/-! ENCODE: at most 40 bits for every byte (R84). -/

theorem render_length_le {t : SymTab} (ht : SymTab.admissible t = true) (v : Nibble) : (render (t v)).length ≤ 15 := by
  have hwf := Laws.render_wf (((SymTab.admissible_iff t).1 ht).1 v)
  simp only [TableWord.wf, Bool.and_eq_true, decide_eq_true_eq] at hwf
  exact hwf.1.1

theorem bytePattern_length_le {t : SymTab} (ht : SymTab.admissible t = true) (b : Byte) :
    (bytePattern t b).length ≤ 33 := by
  have hhi := render_length_le ht (hiNibble b)
  have hlo := render_length_le ht (loNibble b)
  have hgap : gapNibbleBits.length = 3 := rfl
  simp only [bytePattern, List.length_append]
  omega

theorem encodeStep_length_le {t : SymTab} (ht : SymTab.admissible t = true) (i : Nat) (b : Byte) (P : Bits) :
    (encodeStep t i b P).length ≤ P.length + 40 := by
  have hbyte := bytePattern_length_le ht b
  have hgap : gapByteBits.length = 7 := rfl
  rw [encodeStep]
  split <;> simp only [List.length_append] <;> omega

theorem encodeLoop_length_le {t : SymTab} (ht : SymTab.admissible t = true) (i : Nat) (bs : List Byte) (P : Bits) :
    (encodeLoop t i bs P).length ≤ P.length + 40 * bs.length := by
  induction bs generalizing i P with
  | nil => simp [encodeLoop]
  | cons b bs ih =>
    have hstep := encodeStep_length_le ht i b P
    have hrest := ih (i + 1) (encodeStep t i b P)
    simp only [encodeLoop, List.length_cons]
    omega

@[simp] theorem frameBytes_length (P : Bits) : (frameBytes P).length = hdrBytes + ceil8 P.length := by
  simp [frameBytes, headerBytes, packBits]

@[simp] theorem inBytes_length (s : State) : (inBytes s).length = s.inLen.toNat := by simp [inBytes]

/-- The frame of an admitted ENCODE fits the 64-bit length register (R85, D12). -/
theorem encode_frame_lt {p : Params} {s : State} (hp : p.admissible) (h : EncodeAdmitted p s) :
    hdrBytes + ceil8 (encodeLoop p.symtab 0 (inBytes s) []).length < 2 ^ 64 := by
  have hlen := encodeLoop_length_le hp.1 0 (inBytes s) []
  have hin : s.inLen.toNat ≤ 2 ^ 58 := Nat.le_trans h hp.2
  simp only [inBytes_length, List.length_nil] at hlen
  simp only [hdrBytes, ceil8]
  omega

/-! DECODE: a byte takes 8 scanned bits, up to the three zeros that the end of the stream can stand for (R103). -/

/-- What a held nibble accounts for. -/
def heldWork (hv : Bool) : Nat := if hv then 4 else 0

/-- What an open code accounts for: its least one bit, and the zeros counted since. -/
def codeWork (c : Code) (r : Fin 5) (z : Fin 4) : Nat := if c = [] ∧ r = 0 then 0 else 1 + z.val

/-- The bits that the scanner's state accounts for, 8 of them for each emitted byte. -/
def scanWork (s : State) : Nat :=
  8 * s.decOutcnt.toNat + heldWork s.decHv + codeWork s.decCode s.decOnes s.decZeros

@[simp] theorem heldWork_true : heldWork true = 4 := rfl

@[simp] theorem heldWork_false : heldWork false = 0 := rfl

@[simp] theorem codeWork_nil (z : Fin 4) : codeWork [] 0 z = 0 := rfl

theorem codeWork_of_open {c : Code} {r : Fin 5} (h : c ≠ [] ∨ r ≠ 0) (z : Fin 4) : codeWork c r z = 1 + z.val :=
  if_neg fun hclosed => h.elim (absurd hclosed.1) (absurd hclosed.2)

theorem codeWork_le (c : Code) (r : Fin 5) (z : Fin 4) : codeWork c r z ≤ 1 + z.val := by
  unfold codeWork
  split <;> omega

theorem codeWork_le_succ (c : Code) (r : Fin 5) {z z' : Fin 4} (h : z'.val ≤ z.val + 1) :
    codeWork c r z' ≤ codeWork c r z + 1 := by
  unfold codeWork
  split <;> omega

theorem le_scanWork (s : State) : 8 * s.decOutcnt.toNat ≤ scanWork s := by
  unfold scanWork
  omega

theorem scanWork_scanInit (s : State) : scanWork (scanInit s) = 0 := rfl

theorem scanWork_stepOne_le (s : State) : scanWork (stepOne s) ≤ scanWork s + 1 := by
  have hcode := codeWork_le (stepOne s).decCode (stepOne s).decOnes (stepOne s).decZeros
  simp only [scanWork, stepOne_decOutcnt, stepOne_decHv, stepOne_decZeros, Fin.val_zero] at hcode ⊢
  omega

theorem scanWork_endOnes_le (s : State) : scanWork (endOnes s) ≤ scanWork s := by
  by_cases h : s.decOnes = 0
  · rw [endOnes_of_zero h]
  · have hcode := codeWork_le (endOnes s).decCode (endOnes s).decOnes (endOnes s).decZeros
    simp only [scanWork, (endOnes_outKept s).decOutcnt, endOnes_decHv, endOnes_decZeros,
      codeWork_of_open (.inr h)] at hcode ⊢
    omega

@[simp] theorem emitByte_decOutcnt (n : Nibble) (s : State) : (emitByte n s).decOutcnt = s.decOutcnt + 1#64 := rfl

@[simp] theorem emitByte_decHv (n : Nibble) (s : State) : (emitByte n s).decHv = false := rfl

@[simp] theorem emitByte_decCode (n : Nibble) (s : State) : (emitByte n s).decCode = s.decCode := rfl

@[simp] theorem emitByte_decOnes (n : Nibble) (s : State) : (emitByte n s).decOnes = s.decOnes := rfl

/-- The empty code is no entry of an admissible table (R65). -/
theorem resolveCode_ne_nil {t : SymTab} (ht : SymTab.admissible t = true) {s : State} {n : Nibble}
    (h : resolveCode t s = some n) : s.decCode ≠ [] := by
  intro hnil
  have hinv : inv t s.decCode = some n := by
    unfold resolveCode at h
    split at h
    · cases h
    · exact h
  have hlen := (((SymTab.admissible_iff t).1 ht).1 n).1
  rw [inv_eq_some _ _ hinv, hnil] at hlen
  exact absurd hlen (by decide)

/-- A resolved nibble is worth 4 bits, of which the open code accounts for its one bit and its zeros. -/
theorem scanWork_close_le {t : SymTab} (ht : SymTab.admissible t = true) {s : State} (h : s.decOnes = 0) :
    scanWork (close t s) + s.decZeros.val ≤ scanWork s + 3 := by
  rcases close_cases t s with ⟨-, hc⟩ | ⟨n, hr, hv, hc⟩ | ⟨n, hr, hv, hc⟩ <;> rw [hc]
  · simp only [scanWork, clearCode_decOutcnt, clearCode_decHv, clearCode_decCode, clearCode_decOnes, h, codeWork_nil]
    omega
  · simp only [scanWork, holdNibble_decOutcnt, clearCode_decOutcnt, holdNibble_decHv, hv, heldWork_true,
      heldWork_false, holdNibble_decCode, clearCode_decCode, holdNibble_decOnes, clearCode_decOnes, h, codeWork_nil,
      codeWork_of_open (.inl (resolveCode_ne_nil ht hr))]
    omega
  · have hwrap : (s.decOutcnt + 1#64).toNat ≤ s.decOutcnt.toNat + 1 := by
      rw [BitVec.toNat_add]
      exact Nat.mod_le _ _
    simp only [scanWork, emitByte_decOutcnt, clearCode_decOutcnt, emitByte_decHv, hv, heldWork_true, heldWork_false,
      emitByte_decCode, clearCode_decCode, emitByte_decOnes, clearCode_decOnes, h, codeWork_nil,
      codeWork_of_open (.inl (resolveCode_ne_nil ht hr))]
    omega

theorem scanWork_bumpZeros_le (s : State) : scanWork (bumpZeros s) ≤ scanWork s + 1 := by
  have hcode : codeWork s.decCode s.decOnes (bumpZeros s).decZeros ≤ codeWork s.decCode s.decOnes s.decZeros + 1 :=
    codeWork_le_succ _ _ (Nat.min_le_left _ _)
  simp only [scanWork, bumpZeros_decOutcnt, bumpZeros_decHv, bumpZeros_decCode, bumpZeros_decOnes]
  omega

/-- With no code open, no zero is accounted for. -/
theorem scanWork_bumpZeros_of_no_code {s : State} (hcode : s.decCode = []) (hones : s.decOnes = 0) :
    scanWork (bumpZeros s) = scanWork s := by
  simp only [scanWork, bumpZeros_decOutcnt, bumpZeros_decHv, bumpZeros_decCode, bumpZeros_decOnes, hcode, hones,
    codeWork_nil]

theorem scanWork_stepZero_le {t : SymTab} (ht : SymTab.admissible t = true) (s : State) :
    scanWork (stepZero t s) ≤ scanWork s + 1 := by
  have hend := scanWork_endOnes_le s
  rw [stepZero, closeAtThird]
  split
  · rename_i hz
    have hclose := scanWork_close_le ht (endOnes_decOnes s)
    rw [scanWork_bumpZeros_of_no_code (close_decCode t _) (by simp)]
    omega
  · have hbump := scanWork_bumpZeros_le (endOnes s)
    omega

theorem scanWork_scanBit_le {t : SymTab} (ht : SymTab.admissible t = true) (b : Bool) (s : State) :
    scanWork (scanBit t b s) ≤ scanWork s + 1 := by
  cases b
  · exact scanWork_stepZero_le ht s
  · exact scanWork_stepOne_le s

/-- Every scanned bit adds at most one bit of work. -/
theorem scanWork_scanBits_le {t : SymTab} (ht : SymTab.admissible t = true) (bits : Bits) (s : State) :
    scanWork (scanBits t bits s) ≤ scanWork s + bits.length := by
  induction bits generalizing s with
  | nil => simp
  | cons b bits ih =>
    have hbit := scanWork_scanBit_le ht b s
    have hrest := ih (scanBit t b s)
    simp only [scanBits_cons, List.length_cons]
    omega

end Sys2Proof.Machine
end

section
/-! PROOFS. A command writes exactly the bytes of its result. -/

namespace Sys2Proof.Machine

/-- The listed bytes of `OUT` are exactly those with an index below `n`. -/
def ListsExactly (m : Memory) (n : Nat) : Prop := ∀ a, (Memory.read m a).isSome = true ↔ a < n

theorem listsExactly_nil : ListsExactly [] 0 := fun a => by simp [Memory.read]

theorem ListsExactly.write {m : Memory} {n : Nat} (h : ListsExactly m n) (v : Byte) :
    ListsExactly (Memory.write m n v) (n + 1) := by
  intro a
  rw [Memory.read_write]
  split
  · simp [*]
  · rw [h a]
    omega

theorem listsExactly_writeBytes_openOut (vs : List Byte) (s : State) :
    ListsExactly (writeBytes 0 vs (openOut s)).outBuf vs.length := by
  intro a
  rw [read_writeBytes]
  split
  · rename_i h
    simpa using h.2
  · rename_i h
    have hnot : ¬ a < vs.length := by omega
    simp [Memory.read, hnot]

/-- `OUT` lists exactly the bytes emitted so far (R96). -/
def ListsEmitted (s : State) : Prop := ListsExactly s.outBuf s.decOutcnt.toNat

theorem OutKept.listsEmitted {s t : State} (h : OutKept s t) (hs : ListsEmitted s) : ListsEmitted t := by
  rw [ListsEmitted, h.outBuf, h.decOutcnt]
  exact hs

/-- `Close` emits at the next index, as long as the count does not wrap (log 10). -/
theorem close_listsEmitted (t : SymTab) {s : State} (hs : ListsEmitted s) (hwrap : s.decOutcnt.toNat + 1 < 2 ^ 64) :
    ListsEmitted (close t s) := by
  rcases close_cases t s with ⟨-, h⟩ | ⟨n, -, -, h⟩ | ⟨n, -, -, h⟩ <;> rw [h]
  · exact hs
  · exact hs
  · have hcnt : (s.decOutcnt + 1#64).toNat = s.decOutcnt.toNat + 1 := by
      rw [BitVec.toNat_add]
      exact Nat.mod_eq_of_lt hwrap
    have hwritten := ListsExactly.write hs (byteOfNibbles s.decHeld n)
    rw [← hcnt] at hwritten
    exact hwritten

theorem stepZero_listsEmitted (t : SymTab) {s : State} (hs : ListsEmitted s) (hwrap : s.decOutcnt.toNat + 1 < 2 ^ 64) :
    ListsEmitted (stepZero t s) := by
  have hkept := endOnes_outKept s
  have hend := hkept.listsEmitted hs
  rw [stepZero, closeAtThird]
  split
  · exact close_listsEmitted t hend (by rwa [hkept.decOutcnt])
  · exact hend

theorem scanBits_listsEmitted {t : SymTab} (ht : SymTab.admissible t = true) (bits : Bits) {s : State}
    (hs : ListsEmitted s) (hroom : scanWork s + bits.length + 8 < 2 ^ 67) : ListsEmitted (scanBits t bits s) := by
  induction bits generalizing s with
  | nil => exact hs
  | cons b bits ih =>
    have hwork := le_scanWork s
    have hbit := scanWork_scanBit_le ht b s
    simp only [List.length_cons] at hroom
    refine ih ?_ (by omega)
    cases b with
    | true => exact (stepOne_outKept s).listsEmitted hs
    | false => exact stepZero_listsEmitted t hs (by omega)

theorem dropLoneNibble_outKept (s : State) : OutKept s (dropLoneNibble s) := by
  unfold dropLoneNibble
  split
  · exact ⟨rfl, rfl⟩
  · exact .refl s

theorem endOfStream_listsEmitted (t : SymTab) {s : State} (hs : ListsEmitted s)
    (hwrap : s.decOutcnt.toNat + 1 < 2 ^ 64) : ListsEmitted (endOfStream t s) := by
  have hkept := endOnes_outKept s
  have hclose := close_listsEmitted t (hkept.listsEmitted hs) (by rwa [hkept.decOutcnt])
  exact (dropLoneNibble_outKept _).listsEmitted hclose

/-- No input is long enough to make DECODE's count wrap (R7, R103). -/
theorem decodeScan_listsExactly {t : SymTab} (ht : SymTab.admissible t = true) {bits : Bits} (s : State)
    (hbits : bits.length + 16 < 2 ^ 67) :
    ListsExactly (decodeScan t bits s).outBuf (decodeScan t bits s).outLen.toNat := by
  have hinit : ListsEmitted (scanInit (openOut s)) := listsExactly_nil
  have hzero := scanWork_scanInit (openOut s)
  have hscan := scanBits_listsEmitted ht bits hinit (by omega)
  have hwork := scanWork_scanBits_le ht bits (scanInit (openOut s))
  have hcount := le_scanWork (scanBits t bits (scanInit (openOut s)))
  rw [decodeScan_outBuf, decodeScan_outLen]
  exact endOfStream_listsEmitted t hscan (by omega)

theorem writeFrame_listsExactly {P : Bits} (s : State) (h : hdrBytes + ceil8 P.length < 2 ^ 64) :
    ListsExactly (writeFrame P s).outBuf (writeFrame P s).outLen.toNat := by
  have hlen : (writeFrame P s).outLen.toNat = (frameBytes P).length := by
    rw [writeFrame_outLen, BitVec.toNat_ofNat, Nat.mod_eq_of_lt h, frameBytes_length]
  rw [hlen]
  exact listsExactly_writeBytes_openOut (frameBytes P) s

theorem scanCount_le (n : Nat) (s : State) : scanCount n s ≤ 8 * (s.inLen.toNat - hdrBytes) := Nat.min_le_right _ _

/-- A command that completes has written exactly the bytes of its result. -/
theorem command_listsExactly {i : Instr} {s t : State} (hi : isCommand i = true) (h : exec i s = .next t) :
    ListsExactly t.outBuf t.outLen.toNat := by
  rcases exec_cases h with ⟨-, hadm, rfl⟩ | ⟨-, -, rfl⟩ | ⟨-, hlen, rfl⟩ | ⟨hnot, -⟩
  · exact writeFrame_listsExactly s (encode_frame_lt Config.params_admissible hadm)
  · rw [raiseTruncatedHeader_outBuf, raiseTruncatedHeader_outLen]
    exact listsExactly_nil
  · refine decodeScan_listsExactly Config.symtab_admissible s ?_
    have hcount := scanCount_le (headerValue s) s
    rw [payloadBits_length]
    simp only [hdrBytes] at hcount hlen
    omega
  · exact absurd (hi.symm.trans hnot) (by decide)

/-- An index that `OUT` does not list holds the free value. -/
theorem outByte_of_not_listed {s : State} {a : Nat} (h : ¬ (Memory.read s.outBuf a).isSome = true) :
    outByte s a = Config.freeOutByte s.instanceNo s.outDraw a := by
  rw [outByte, Option.not_isSome_iff_eq_none.1 h, Option.getD_none]

theorem hostReadOut_of_lt {s : State} {a : Word64} (h : a < s.outLen) : hostReadOut s a = outByte s a.toNat := if_pos h

theorem hostReadOut_of_not_lt {s : State} {a : Word64} (h : ¬ a < s.outLen) :
    hostReadOut s a = Config.freeOutByte s.instanceNo s.outDraw a.toNat := if_neg h

/-- Settles O42: `command_listsExactly`; an index that is not listed holds the free value. -/
theorem commandsWriteExactlyTheResult : Obligations.CommandsWriteExactlyTheResult := by
  intro i s t hi h
  have hlists := command_listsExactly hi h
  refine ⟨hlists, fun a ha => ?_, fun a => hostReadOut_of_lt, fun a => hostReadOut_of_not_lt⟩
  exact outByte_of_not_listed fun hsome => absurd ((hlists a).1 hsome) (Nat.not_lt.2 ha)

end Sys2Proof.Machine
end

section
/-! PROOFS. The invariant: what it says of the scanner is kept by each scanner operation, and what it says of the result
is kept because a command lists its result exactly and a scanner's row only adds bytes. -/

namespace Sys2Proof.Machine

/-- The part of the invariant that speaks of the scanner and of the buffer it stores into. -/
structure ScannerInv (s : State) : Prop where
  outWf     : Memory.wf s.outBuf = true
  codeBound : s.decCode.length ≤ 4
  ovfFull   : s.decOvf = true → s.decCode.length = 4
  oneRun    : s.decOnes = 0 ∨ s.decZeros = 0
  heldClear : s.decHv = false → s.decHeld = 0#4

theorem StateInv.scannerInv {s : State} (h : StateInv s) : ScannerInv s :=
  ⟨h.outWf, h.codeBound, h.ovfFull, h.oneRun, h.heldClear⟩

theorem ScannerInv.stateInv {s : State} (h : ScannerInv s) (hin : Memory.wf s.inBuf = true)
    (hlisted : ∀ a, a < s.outLen.toNat → (Memory.read s.outBuf a).isSome = true)
    (hfail : s.status = resultTruncatedHeader → s.outLen = 0#64) : StateInv s :=
  ⟨hin, h.outWf, h.codeBound, h.ovfFull, h.oneRun, h.heldClear, hlisted, hfail⟩

theorem ScannerInv.of_keepsScanner {s t : State} (h : ScannerInv s) (hk : KeepsScanner s t)
    (hwf : Memory.wf t.outBuf = true) : ScannerInv t where
  outWf := hwf
  codeBound := by simpa only [hk.decCode] using h.codeBound
  ovfFull := by simpa only [hk.decCode, hk.decOvf] using h.ovfFull
  oneRun := by simpa only [hk.decOnes, hk.decZeros] using h.oneRun
  heldClear := by simpa only [hk.decHv, hk.decHeld] using h.heldClear

/-- `ScanInit` sets every register it speaks of (R91). -/
theorem scannerInv_scanInit {s : State} (hwf : Memory.wf s.outBuf = true) : ScannerInv (scanInit s) :=
  ⟨hwf, Nat.zero_le 4, fun h => absurd h (by simp), .inl rfl, fun _ => rfl⟩

theorem ScannerInv.append {s : State} (h : ScannerInv s) (x : Sym) : ScannerInv (append x s) := by
  have hbound := h.codeBound
  unfold Machine.append
  split
  · exact ⟨h.outWf, by simp; omega, fun hovf => absurd (h.ovfFull hovf) (by omega), h.oneRun, h.heldClear⟩
  · exact ⟨h.outWf, hbound, fun _ => by simp; omega, h.oneRun, h.heldClear⟩

theorem ScannerInv.setOnes_zero {s : State} (h : ScannerInv s) : ScannerInv (setOnes 0 s) :=
  ⟨h.outWf, h.codeBound, h.ovfFull, .inl rfl, h.heldClear⟩

theorem ScannerInv.bumpZeros {s : State} (h : ScannerInv s) (hones : s.decOnes = 0) : ScannerInv (bumpZeros s) :=
  ⟨h.outWf, h.codeBound, h.ovfFull, .inl hones, h.heldClear⟩

theorem ScannerInv.stepOne {s : State} (h : ScannerInv s) : ScannerInv (stepOne s) :=
  ⟨h.outWf, h.codeBound, h.ovfFull, .inr rfl, h.heldClear⟩

theorem ScannerInv.clearCode {s : State} (h : ScannerInv s) : ScannerInv (clearCode s) :=
  ⟨h.outWf, Nat.zero_le 4, fun hovf => absurd hovf (by simp), h.oneRun, h.heldClear⟩

theorem ScannerInv.holdNibble {s : State} (h : ScannerInv s) (n : Nibble) : ScannerInv (holdNibble n s) :=
  ⟨h.outWf, h.codeBound, h.ovfFull, h.oneRun, fun hv => absurd hv (by simp)⟩

theorem ScannerInv.emitByte {s : State} (h : ScannerInv s) (n : Nibble) : ScannerInv (emitByte n s) :=
  ⟨Memory.wf_write h.outWf _ _, h.codeBound, h.ovfFull, h.oneRun, fun _ => rfl⟩

theorem ScannerInv.endOnes {s : State} (h : ScannerInv s) : ScannerInv (endOnes s) := by
  unfold Machine.endOnes
  split
  · exact h
  · unfold classify
    split
    · exact (h.append .dot).setOnes_zero
    · exact (h.append .dash).setOnes_zero
    · exact h.setOnes_zero

theorem ScannerInv.close {s : State} (h : ScannerInv s) (t : SymTab) : ScannerInv (close t s) := by
  rcases close_cases t s with ⟨-, hc⟩ | ⟨n, -, -, hc⟩ | ⟨n, -, -, hc⟩ <;> rw [hc]
  · exact h.clearCode
  · exact h.clearCode.holdNibble n
  · exact h.clearCode.emitByte n

theorem ScannerInv.stepZero {s : State} (h : ScannerInv s) (t : SymTab) : ScannerInv (stepZero t s) := by
  unfold Machine.stepZero closeAtThird
  split
  · exact (h.endOnes.close t).bumpZeros (by simp)
  · exact h.endOnes.bumpZeros (endOnes_decOnes s)

theorem ScannerInv.scanBits {s : State} (h : ScannerInv s) (t : SymTab) (bits : Bits) :
    ScannerInv (scanBits t bits s) := by
  induction bits generalizing s with
  | nil => exact h
  | cons b bits ih =>
    cases b with
    | true => exact ih h.stepOne
    | false => exact ih (h.stepZero t)

theorem ScannerInv.dropLoneNibble {s : State} (h : ScannerInv s) : ScannerInv (dropLoneNibble s) := by
  unfold Machine.dropLoneNibble
  split
  · exact ⟨h.outWf, h.codeBound, h.ovfFull, h.oneRun, fun _ => rfl⟩
  · exact h

theorem ScannerInv.endOfStream {s : State} (h : ScannerInv s) (t : SymTab) : ScannerInv (endOfStream t s) :=
  (h.endOnes.close t).dropLoneNibble

/-- A scanning DECODE ends in the scanner's invariant from any state: it starts with `ScanInit` and a new buffer. -/
theorem scannerInv_decodeScan (t : SymTab) (bits : Bits) (s : State) : ScannerInv (decodeScan t bits s) := by
  have hinit : ScannerInv (scanInit (openOut s)) := scannerInv_scanInit Memory.wf_nil
  have hend := (hinit.scanBits t bits).endOfStream t
  exact hend.of_keepsScanner ⟨rfl, rfl, rfl, rfl, rfl, rfl, rfl⟩ hend.outWf

/-! Bytes once listed stay listed while the scanner runs. -/

/-- Every index that `OUT` listed is still listed. -/
def OutGrows (s t : State) : Prop :=
  ∀ a, (Memory.read s.outBuf a).isSome = true → (Memory.read t.outBuf a).isSome = true

theorem OutKept.outGrows {s t : State} (h : OutKept s t) : OutGrows s t := fun a ha => by rwa [h.outBuf]

theorem OutGrows.trans {s t u : State} (h : OutGrows s t) (k : OutGrows t u) : OutGrows s u := fun a ha => k a (h a ha)

theorem close_outGrows (t : SymTab) (s : State) : OutGrows s (close t s) := by
  rcases close_cases t s with ⟨-, h⟩ | ⟨n, -, -, h⟩ | ⟨n, -, -, h⟩ <;> rw [h]
  · exact fun _ ha => ha
  · exact fun _ ha => ha
  · intro a ha
    change (Memory.read (Memory.write s.outBuf _ _) a).isSome = true
    rw [Memory.read_write]
    split
    · rfl
    · exact ha

theorem stepZero_outGrows (t : SymTab) (s : State) : OutGrows s (stepZero t s) := by
  have hend := (endOnes_outKept s).outGrows
  unfold stepZero closeAtThird
  split
  · exact hend.trans (close_outGrows t (endOnes s))
  · exact hend

theorem scanBits_outGrows (t : SymTab) (bits : Bits) (s : State) : OutGrows s (scanBits t bits s) := by
  induction bits generalizing s with
  | nil => exact fun _ ha => ha
  | cons b bits ih =>
    cases b with
    | true => exact (stepOne_outKept s).outGrows.trans (ih _)
    | false => exact (stepZero_outGrows t s).trans (ih _)

/-! The invariant itself. -/

theorem writeFrame_outWf (P : Bits) (s : State) : Memory.wf (writeFrame P s).outBuf = true := by
  rw [writeFrame_outBuf]
  exact wf_writeBytes Memory.wf_nil 0 (frameBytes P)

theorem exec_scannerInv {i : Instr} {s t : State} (h : ScannerInv s) (hexec : exec i s = .next t) : ScannerInv t := by
  rcases exec_cases hexec with ⟨-, -, rfl⟩ | ⟨-, -, rfl⟩ | ⟨-, -, rfl⟩ | ⟨-, rfl⟩
  · exact h.of_keepsScanner (writeFrame_keepsScanner _ s) (writeFrame_outWf _ s)
  · exact h.of_keepsScanner (raiseTruncatedHeader_keepsScanner s) Memory.wf_nil
  · exact scannerInv_decodeScan _ _ s
  · exact h.scanBits _ _

/-- Every byte of the result is listed after any instruction, if it was before (R16, R32). -/
theorem exec_outListed {i : Instr} {s t : State} (h : StateInv s) (hexec : exec i s = .next t) (a : Nat)
    (ha : a < t.outLen.toNat) : (Memory.read t.outBuf a).isSome = true := by
  cases hi : isCommand i with
  | true => exact (command_listsExactly hi hexec a).2 ha
  | false =>
    obtain rfl := Host.Outcome.next.inj ((exec_of_not_isCommand hi s).symm.trans hexec)
    have hlen := (scanBits_outside Config.symtab (instrBits i) s).2.outLen
    exact scanBits_outGrows _ _ s a (h.outListed a (by rwa [← hlen]))

/-- Only the failure leaves the failure's code, and then with no bytes (R112). -/
theorem exec_failEmpty {i : Instr} {s t : State} (h : StateInv s) (hexec : exec i s = .next t)
    (hfail : t.status = resultTruncatedHeader) : t.outLen = 0#64 := by
  rcases exec_cases hexec with ⟨-, -, rfl⟩ | ⟨-, -, rfl⟩ | ⟨-, -, rfl⟩ | ⟨-, rfl⟩
  · exact absurd hfail (by simp [resultOk, resultTruncatedHeader])
  · exact raiseTruncatedHeader_outLen s
  · exact absurd hfail (by simp [resultOk, resultTruncatedHeader])
  · have hresult := (scanBits_outside Config.symtab (instrBits i) s).2
    rw [hresult.outLen]
    exact h.failEmpty (hresult.status ▸ hfail)

theorem exec_stateInv {i : Instr} {s t : State} (h : StateInv s) (hexec : exec i s = .next t) : StateInv t := by
  have hin : Memory.wf t.inBuf = true := by
    rw [(exec_keepsInputs hexec).inBuf]
    exact h.inWf
  exact (exec_scannerInv h.scannerInv hexec).stateInv hin (exec_outListed h hexec) (exec_failEmpty h hexec)

theorem beginCommand_stateInv {s : State} (h : StateInv s) : StateInv (beginCommand s) :=
  (scannerInv_scanInit (s := takeCommand s) h.outWf).stateInv h.inWf h.outListed h.failEmpty

theorem step_stateInv {s t : State} (h : StateInv s) (hstep : step s = .next t) : StateInv t := by
  unfold step at hstep
  split at hstep
  · exact exec_stateInv (beginCommand_stateInv h) hstep
  · obtain rfl := Host.Outcome.next.inj hstep
    exact h

/-- The host changes `IN`, `IN_LEN` and `CMD` only; the invariant asks of them that `IN` be in canonical form. -/
theorem StateInv.of_host_write {s : State} (h : StateInv s) {m : Memory} (hm : Memory.wf m = true) (n : Word64)
    (p : Bool) (op : BitVec 1) : StateInv { s with inBuf := m, inLen := n, cmdPending := p, cmdOp := op } :=
  ⟨hm, h.outWf, h.codeBound, h.ovfFull, h.oneRun, h.heldClear, h.outListed, h.failEmpty⟩

theorem hostCopyOutToIn_stateInv {s : State} (h : StateInv s) : StateInv (hostCopyOutToIn s) := by
  rw [hostCopyOutToIn, hostWriteBytes_eq]
  exact h.of_host_write (wf_hostWriteBytes h.inWf 0 (outBytes s)) _ _ _

/-- The reset registers have the invariant whatever the buffers' free bytes: both buffers are empty and there is no
result byte. -/
theorem stateInv_reset (inDraw outDraw instanceNo : Nat) :
    StateInv { State.reset with inDraw := inDraw, outDraw := outDraw, instanceNo := instanceNo } :=
  ScannerInv.stateInv (scannerInv_scanInit (s := { State.reset with inDraw, outDraw, instanceNo }) Memory.wf_nil)
    Memory.wf_nil (fun _ h => absurd h (Nat.not_lt_zero _)) (fun _ => rfl)

/-- Settles O54: `stateInv_reset` at the power-on values of the model's own fields. -/
theorem resetHasInvariant : Obligations.ResetHasInvariant := stateInv_reset 0 0 0

theorem hostReset_stateInv (s : State) : StateInv (hostReset s) := stateInv_reset _ _ _

theorem hostAct_stateInv {a : HostAction} {s t : State} (h : StateInv s) (hact : hostAct a s = .next t) :
    StateInv t := by
  cases a with
  | writeIn i v =>
    obtain rfl := Host.Outcome.next.inj hact
    exact h.of_host_write (Memory.wf_write h.inWf i.toNat v) _ _ _
  | setInLen n =>
    obtain rfl := Host.Outcome.next.inj hact
    exact h.of_host_write h.inWf _ _ _
  | copyOutToIn =>
    obtain rfl := Host.Outcome.next.inj hact
    exact hostCopyOutToIn_stateInv h
  | issue op => exact step_stateInv (h.of_host_write h.inWf s.inLen true op) hact
  | reset =>
    obtain rfl := Host.Outcome.next.inj hact
    exact hostReset_stateInv s

/-- Settles O55: `exec_stateInv` for the instructions; a step runs one from `beginCommand`, and the host's writes reach
none of the invariant's registers but `IN`. -/
theorem invariantIsKept : Obligations.InvariantIsKept :=
  ⟨fun _ _ _ => exec_stateInv, fun _ _ => step_stateInv, fun _ _ _ => hostAct_stateInv⟩

end Sys2Proof.Machine
end

section
/-! PROOFS. Reset, the host port, and how a step comes to run an instruction. -/

namespace Sys2Proof.Machine

/-- Settles O47: `State.reset` and `hostReset` hold the same values in every register that the spec gives one. -/
theorem resetValues : Obligations.ResetValues := by
  intro r hr
  rcases hr with rfl | ⟨s, rfl⟩
  · exact ⟨rfl, rfl, rfl, rfl, rfl, rfl, rfl, rfl, rfl, rfl, rfl⟩
  · exact ⟨rfl, rfl, rfl, rfl, rfl, rfl, rfl, rfl, rfl, rfl, rfl⟩

theorem step_of_not_pending {s : State} (h : s.cmdPending = false) : step s = .next s := by
  simp [step, h]

theorem System.reset_getElem? {k : Nat} (h : k < Config.instances) :
    System.reset.instances[k]? = some { State.reset with instanceNo := k } := by
  simp [System.reset, h]

/-- Settles O48: nothing is listed after a reset, so every byte is the free one, and no command is pending. -/
theorem resetLeavesBuffersUnspecified : Obligations.ResetLeavesBuffersUnspecified :=
  ⟨fun _ _ => ⟨rfl, rfl⟩, fun _ => System.reset_getElem?, fun _ _ => ⟨rfl, rfl⟩, step_of_not_pending rfl,
    fun _ => step_of_not_pending rfl⟩

/-! The host port. -/

theorem inByte_hostWriteIn (a b : Nat) (v : Byte) (s : State) :
    inByte (hostWriteIn a v s) b = if b = a then v else inByte s b := by
  simp only [inByte, hostWriteIn_inBuf, hostWriteIn_instanceNo, hostWriteIn_inDraw, Memory.read_write]
  split <;> rfl

theorem hostCopyOutToIn_eq (s : State) :
    hostCopyOutToIn s = { s with inBuf := (hostCopyOutToIn s).inBuf, inLen := s.outLen } := by
  rw [hostCopyOutToIn, hostWriteBytes_eq]
  rfl

@[simp] theorem outBytes_length (s : State) : (outBytes s).length = s.outLen.toNat := by simp [outBytes]

/-- `IN <- OUT` makes the result the input (R61, R127). -/
theorem inBytes_hostCopyOutToIn (s : State) : inBytes (hostCopyOutToIn s) = outBytes s := by
  have hlen : (hostCopyOutToIn s).inLen = s.outLen := rfl
  refine List.ext_getElem (by simp [hlen]) fun k hk hk' => ?_
  have hread : Memory.read (hostCopyOutToIn s).inBuf k = some (outBytes s)[k] := by
    change Memory.read (hostWriteBytes 0 (outBytes s) s).inBuf k = _
    rw [read_hostWriteBytes, dif_pos (by omega)]
    rfl
  simp [inBytes, inByte, hread]

theorem hostReadIn_of_lt {s : State} {a : Word64} (h : a < s.inLen) : hostReadIn s a = inByte s a.toNat := if_pos h

theorem hostReadIn_of_not_lt {s : State} {a : Word64} (h : ¬ a < s.inLen) :
    hostReadIn s a = Config.freeInByte s.instanceNo s.inDraw a.toNat := if_neg h

/-- Settles O46: the two access columns of R27 port by port, and each host action and read by what it does. -/
theorem hostWritesOnlyWhatItMay : Obligations.HostWritesOnlyWhatItMay := by
  refine ⟨fun r => by cases r <;> decide, fun a v s => ?_, fun _ _ => rfl, fun s => ?_, fun r => by cases r <;> decide,
    fun _ => ⟨rfl, rfl, rfl⟩, fun r s hr => ?_, fun _ _ => ⟨hostReadIn_of_lt, hostReadIn_of_not_lt⟩,
    fun _ _ => ⟨hostReadOut_of_lt, hostReadOut_of_not_lt⟩⟩
  · exact ⟨hostWriteIn a.toNat v s, rfl, rfl, fun b => inByte_hostWriteIn a.toNat b v s⟩
  · exact ⟨hostCopyOutToIn s, rfl, hostCopyOutToIn_eq s, inBytes_hostCopyOutToIn s⟩
  · rcases hr with rfl | rfl | rfl | rfl | rfl | rfl | rfl | rfl | rfl <;> rfl

/-! The pending command word. -/

/-- A one-bit register is its bit. -/
theorem ofBool_getLsbD_zero (x : BitVec 1) : BitVec.ofBool (x.getLsbD 0) = x := by
  rcases BitVec.eq_zero_or_eq_one x with rfl | rfl <;> rfl

theorem decode_command (op : BitVec 1) : decode { format := .command, bits := [op.getLsbD 0] } = .ok (decodeOp op) := by
  change Except.ok (decodeOp (BitVec.ofBool (op.getLsbD 0))) = _
  rw [ofBool_getLsbD_zero]

/-- A host word is decoded only where it is one bit in value, and then as that bit (R47, R48, log 16). -/
theorem decodeTableWord_eq_some {nbits w : Nat} {i : Instr} (h : decodeTableWord nbits w = some i) :
    nbits ≠ 0 ∧ w < 2 ∧ i = decodeOp (BitVec.ofNat 1 w) := by
  unfold decodeTableWord at h
  split at h
  · cases h
  · rename_i hn
    split at h
    · rename_i hw
      have hbit : w.testBit 0 = (BitVec.ofNat 1 w).getLsbD 0 := by
        rw [BitVec.getLsbD_ofNat]
        rfl
      rw [hbit, decode_command] at h
      exact ⟨hn, hw, (Option.some.inj h).symm⟩
    · cases h

theorem withFetchWord_of_command (s : State) {nbits w : Nat} (hn : nbits ≠ 0) (hw : w < 2) :
    s.withFetchWord nbits w = writeCmd (BitVec.ofNat 1 w) s := by
  rw [State.withFetchWord, if_neg hn, if_pos hw]

/-- A step after the host's write of `CMD.OP` runs that command (R15). -/
theorem step_writeCmd (op : BitVec 1) (s : State) :
    step (writeCmd op s) = exec (decodeOp op) (scanInit { s with cmdPending := false, cmdOp := op }) :=
  step_of_pending rfl

/-- Settles O50: a pending step runs `decodeOp` of the register, which is what the command word decodes to. -/
theorem stepRunsTheDecodedCommand : Obligations.StepRunsTheDecodedCommand := by
  refine ⟨fun s i hpend hdec => ?_, fun s nbits w i hdec => ?_, fun s op => step_writeCmd op s⟩
  · obtain rfl := Except.ok.inj ((decode_command s.cmdOp).symm.trans hdec)
    exact step_of_pending hpend
  · obtain ⟨hn, hw, rfl⟩ := decodeTableWord_eq_some hdec
    rw [withFetchWord_of_command s hn hw]
    exact step_writeCmd _ s

end Sys2Proof.Machine
end

section
/-! PROOFS. The header and the packed payload: writing them, reading them back, bit by bit. -/

namespace Sys2Proof

/-! The header (R34). -/

theorem headerByte_toNat {n : Nat} (h : n < 2 ^ 64) (k : Nat) :
    (headerByte n k).toNat = n / 2 ^ (8 * k) % 256 := by
  rw [headerByte, BitVec.extractLsb'_toNat, BitVec.toNat_ofNat, Nat.mod_eq_of_lt h, Nat.shiftRight_eq_div_pow]

/-- Reading `k` header bytes from byte `a` on gives that part of the count. -/
theorem littleEndian_headerByte_range' {n : Nat} (h : n < 2 ^ 64) (a k : Nat) :
    littleEndian ((List.range' a k).map (headerByte n)) = n / 2 ^ (8 * a) % 2 ^ (8 * k) := by
  induction k generalizing a with
  | zero => simp [littleEndian, Nat.mod_one]
  | succ k ih =>
    have hshift : n / 2 ^ (8 * (a + 1)) = n / 2 ^ (8 * a) / 256 := by
      rw [Nat.div_div_eq_div_mul, Nat.mul_succ, Nat.pow_add]
    have hbase : 2 ^ (8 * (k + 1)) = 256 * 2 ^ (8 * k) := by
      rw [Nat.mul_succ, Nat.pow_add, Nat.mul_comm]
    simp only [List.range'_succ, List.map_cons, littleEndian, headerByte_toNat h, ih, hshift, hbase, Nat.mod_mul]

@[simp] theorem headerBytes_length (n : Nat) : (headerBytes n).length = 8 := by simp [headerBytes, hdrBytes]

theorem headerBytes_getD (n : Nat) {k : Nat} (h : k < 8) : (headerBytes n).getD k 0 = headerByte n k := by
  simp [headerBytes, hdrBytes, List.getD, h]

theorem littleEndian_headerBytes {n : Nat} (h : n < 2 ^ 64) : littleEndian (headerBytes n) = n := by
  rw [headerBytes, List.range_eq_range', littleEndian_headerByte_range' h, Nat.mul_zero, Nat.pow_zero, Nat.div_one]
  exact Nat.mod_eq_of_lt h

theorem littleEndian_lt (bs : List Byte) : littleEndian bs < 2 ^ (8 * bs.length) := by
  induction bs with
  | nil => decide
  | cons b bs ih =>
    have hb := b.isLt
    rw [littleEndian, List.length_cons, Nat.mul_succ, Nat.pow_add]
    omega

/-- Byte strings of one length are told apart by their values. -/
theorem littleEndian_injective {bs cs : List Byte} (hlen : bs.length = cs.length)
    (h : littleEndian bs = littleEndian cs) : bs = cs := by
  induction bs generalizing cs with
  | nil => exact (List.length_eq_zero_iff.1 hlen.symm).symm
  | cons b bs ih =>
    obtain _ | ⟨c, cs⟩ := cs
    · cases hlen
    · have hb := b.isLt
      have hc := c.isLt
      simp only [littleEndian] at h
      rw [BitVec.eq_of_toNat_eq (x := b) (y := c) (by omega), ih (Nat.succ.inj hlen) (by omega)]

theorem littleEndian_eq_sum (bs : List Byte) :
    littleEndian bs = ((List.range bs.length).map fun k => (bs.getD k 0).toNat * 2 ^ (8 * k)).sum := by
  induction bs with
  | nil => rfl
  | cons b bs ih =>
    have hweight (k : Nat) : (bs.getD k 0).toNat * 2 ^ (8 * (k + 1)) = 256 * ((bs.getD k 0).toNat * 2 ^ (8 * k)) := by
      rw [Nat.mul_succ, Nat.pow_add]
      ring
    simp only [littleEndian, ih, List.length_cons, List.range_succ_eq_map, List.map_cons, List.map_map,
      Function.comp_def, List.sum_cons, List.getD_cons_zero, List.getD_cons_succ, Nat.mul_zero, Nat.pow_zero,
      Nat.mul_one, hweight, List.sum_map_mul_left]

/-- Settles O10: reading is a left inverse of writing (`littleEndian_headerBytes`), and it is injective on 8 bytes, so
it is a right inverse too. -/
theorem headerIsLittleEndian : Obligations.HeaderIsLittleEndian := by
  refine ⟨fun n h => ⟨headerBytes_length n, fun k hk => ?_, littleEndian_headerBytes h⟩, littleEndian_eq_sum,
    fun bs hlen => ?_⟩
  · rw [headerBytes_getD n hk, headerByte_toNat h]
  · have hlt : littleEndian bs < 2 ^ 64 := by simpa [hlen] using littleEndian_lt bs
    exact ⟨hlt, littleEndian_injective (by simp [hlen]) (littleEndian_headerBytes hlt)⟩

/-! The payload (R35-R37). -/

/-- The number whose `n` bits, most significant first, are `f 0 .. f (n-1)`. -/
def msbValue (f : Nat → Bool) (n : Nat) : Nat :=
  ((List.range n).map fun t => if f t then 1 <<< (n - 1 - t) else 0).sum

/-- R79's sum is `msbValue` of the byte's eight bits. -/
theorem packByte_eq_msbValue (P : Bits) (q : Nat) :
    packByte P q = BitVec.ofNat 8 (msbValue (fun t => P.getD (8 * q + t) false) 8) := rfl

/-- A further bit doubles the weights of those before it. -/
theorem msbValue_succ (f : Nat → Bool) (n : Nat) : msbValue f (n + 1) = Nat.bit (f n) (msbValue f n) := by
  have hdouble : ((List.range n).map fun t => if f t then 1 <<< (n + 1 - 1 - t) else 0) =
      (List.range n).map fun t => 2 * if f t then 1 <<< (n - 1 - t) else 0 := by
    refine List.map_congr_left fun t ht => ?_
    have hpos : n + 1 - 1 - t = n - 1 - t + 1 := by have := List.mem_range.1 ht; omega
    rw [hpos, Nat.shiftLeft_succ, mul_ite, Nat.mul_zero]
  rw [msbValue, List.range_succ, List.map_append, List.sum_append, hdouble, List.sum_map_mul_left, Nat.bit_val]
  cases hf : f n <;> simp [msbValue, hf]

theorem testBit_msbValue (f : Nat → Bool) {n t : Nat} (h : t < n) : (msbValue f n).testBit (n - 1 - t) = f t := by
  induction n with
  | zero => omega
  | succ n ih =>
    rw [msbValue_succ]
    rcases Nat.lt_succ_iff_lt_or_eq.1 h with ht | rfl
    · have hpos : n + 1 - 1 - t = n - 1 - t + 1 := by omega
      rw [hpos, Nat.testBit_bit_succ, ih ht]
    · simp

/-- Payload byte `j div 8` holds bit `j` of the pattern, or 0 beyond its end (R35, R36). -/
theorem payloadBit_packByte (P : Bits) (j : Nat) : payloadBit (packByte P (j / 8)) j = P.getD j false := by
  have ht : j % 8 < 8 := Nat.mod_lt _ (by decide)
  have hbit := testBit_msbValue (fun t => P.getD (8 * (j / 8) + t) false) ht
  rw [Nat.div_add_mod] at hbit
  rw [payloadBit, packByte_eq_msbValue, BitVec.getLsbD_ofNat, ← hbit]
  simp only [Bool.and_eq_right_iff_imp, decide_eq_true_eq]
  omega

theorem packBits_getElem? (P : Bits) {q : Nat} (h : q < ceil8 P.length) : (packBits P)[q]? = some (packByte P q) := by
  simp [packBits, h]

theorem div_lt_ceil8 {j n : Nat} (h : j < 8 * ceil8 n) : j / 8 < ceil8 n := by omega

theorem lt_eight_mul_ceil8 {j n : Nat} (h : j < n) : j < 8 * ceil8 n := by
  unfold ceil8
  omega

/-- Every bit of the payload, the padding bits among them. -/
theorem packBits_bit (P : Bits) {j : Nat} (h : j < 8 * ceil8 P.length) :
    ((packBits P).getD (j / 8) 0).getLsbD (7 - j % 8) = P.getD j false := by
  rw [List.getD_eq_getElem?_getD, packBits_getElem? P (div_lt_ceil8 h)]
  exact payloadBit_packByte P j

theorem payloadBit_sub_eight (b : Byte) {j : Nat} (h : 8 ≤ j) : payloadBit b (j - 8) = payloadBit b j := by
  rw [payloadBit, payloadBit, ← Nat.mod_eq_sub_mod h]

/-- Bit `j` of an expanded byte string is in byte `j div 8` (R37). -/
theorem expandBytes_getElem? (bs : List Byte) (j : Nat) :
    (expandBytes bs)[j]? = bs[j / 8]?.map fun b => payloadBit b j := by
  induction bs generalizing j with
  | nil => simp [expandBytes]
  | cons b bs ih =>
    have hcons : expandBytes (b :: bs) = (List.range 8).map (payloadBit b) ++ expandBytes bs := rfl
    rcases Nat.lt_or_ge j 8 with hj | hj
    · rw [hcons, List.getElem?_append_left (by simpa using hj), Nat.div_eq_of_lt hj]
      simp [hj]
    · have hdiv : j / 8 = (j - 8) / 8 + 1 := by omega
      rw [hcons, List.getElem?_append_right (by simpa using hj), hdiv, List.getElem?_cons_succ]
      simp [ih, payloadBit_sub_eight _ hj]

/-- Settles O11: `packBits_bit` inside the pattern and beyond its end; expanding reads the same bits back. -/
theorem packingIsMsbFirstZeroPadded : Obligations.PackingIsMsbFirstZeroPadded := by
  intro P
  refine ⟨by simp [packBits, ceil8], fun j hj => packBits_bit P (lt_eight_mul_ceil8 hj), fun j hj hpad => ?_, ?_⟩
  · rw [packBits_bit P hpad, List.getD_eq_default _ _ hj]
  · refine List.ext_getElem? fun j => ?_
    rw [List.getElem?_take]
    split
    · rename_i hj
      rw [expandBytes_getElem?, packBits_getElem? P (div_lt_ceil8 (lt_eight_mul_ceil8 hj)), Option.map_some,
        payloadBit_packByte, List.getD_eq_getElem _ _ hj, List.getElem?_eq_getElem hj]
    · rename_i hj
      exact (List.getElem?_eq_none (Nat.not_lt.1 hj)).symm

end Sys2Proof
end

section
/-! PROOFS. Memory and safety: a write sets one byte of `OUT`, and no instruction faults. -/

namespace Sys2Proof.Machine

theorem outByte_memWrite (a b : Nat) (v : Byte) (s : State) :
    outByte (memWrite a v s) b = if b = a then v else outByte s b := by
  simp only [outByte, memWrite_outBuf, memWrite_instanceNo, memWrite_outDraw, Memory.read_write]
  split <;> rfl

/-- Settles O41: `memWrite` replaces `OUT` only, by `Memory.write`. -/
theorem memWriteSetsOneByte : Obligations.MemWriteSetsOneByte :=
  fun s a b v => ⟨rfl, outByte_memWrite a b v s, rfl, fun hwf => Memory.wf_write hwf a v⟩

theorem encodeWith_of_admitted {p : Params} {s : State} (h : EncodeAdmitted p s) :
    encodeWith p s = .next (writeFrame (encodeLoop p.symtab 0 (inBytes s) []) s) :=
  encodeWith_eq_next_iff.2 ⟨h, rfl⟩

theorem encodeWith_of_not_admitted {p : Params} {s : State} (h : ¬ EncodeAdmitted p s) :
    encodeWith p s = .refused .inLenBeyondMax := if_pos (Nat.not_le.1 h)

/-- Every instruction completes or is the refused ENCODE: each index a command reads `IN` at is below `IN_LEN`
(`encodeOperand_ok`, `headerCount_ok`, `readPayloadBits_ok`). -/
theorem exec_completes_or_refused (i : Instr) (s : State) :
    Completes (exec i s) ∨ exec i s = .refused .inLenBeyondMax := by
  cases hi : isCommand i with
  | false => exact .inl ⟨_, exec_of_not_isCommand hi s⟩
  | true =>
    cases i with
    | encode =>
      by_cases hadm : EncodeAdmitted Config.params s
      · exact .inl ⟨_, encodeWith_of_admitted hadm⟩
      · exact .inr (encodeWith_of_not_admitted hadm)
    | decode =>
      rcases Nat.lt_or_ge s.inLen.toNat hdrBytes with hlen | hlen
      · exact .inl ⟨_, decodeWith_of_short hlen⟩
      · exact .inl ⟨_, decodeWith_of_header hlen⟩
    | _ => cases hi

theorem exec_ne_fault (i : Instr) (s : State) (f : Fault) : exec i s ≠ .fault f := by
  rcases exec_completes_or_refused i s with ⟨t, h⟩ | h <;> rw [h] <;> nofun

/-- Settles O53: `exec_ne_fault`; a step runs an instruction or keeps the state. -/
theorem noStepFaults : Obligations.NoStepFaults := by
  refine ⟨exec_ne_fault, fun s f => ?_⟩
  cases hpend : s.cmdPending with
  | true =>
    rw [step_of_pending hpend]
    exact exec_ne_fault _ _ f
  | false =>
    rw [step_of_not_pending hpend]
    nofun

end Sys2Proof.Machine
end

section
/-! PROOFS. A command's result depends on its input only: what it reads of `IN` is the same for the same input, and the
scanner reads nothing outside its own registers and `OUT`. -/

namespace Sys2Proof.Machine

/-! What a command reads of `IN`. -/

section
variable {s s' : State} (h : SameInput s s')
include h

theorem SameInput.inBytes_eq : inBytes s = inBytes s' := by
  rw [inBytes, inBytes, ← h.inLen]
  exact List.map_congr_left fun a ha => h.bytes a (List.mem_range.1 ha)

theorem SameInput.headerValue_eq (hlen : hdrBytes ≤ s.inLen.toNat) : headerValue s = headerValue s' := by
  rw [headerValue, headerValue]
  exact congrArg littleEndian
    (List.map_congr_left fun a ha => h.bytes a (Nat.lt_of_lt_of_le (List.mem_range.1 ha) hlen))

theorem SameInput.scanCount_eq (n : Nat) : scanCount n s = scanCount n s' := by
  rw [scanCount, scanCount, availableBits, availableBits, h.inLen]

/-- Each scanned bit lies in a byte below `IN_LEN` (R89, R90). -/
theorem SameInput.payloadBits_scanCount_eq (n : Nat) :
    payloadBits s (scanCount n s) = payloadBits s' (scanCount n s) := by
  refine List.map_congr_left fun j hj => ?_
  have hcount := scanCount_le n s
  have hbelow : hdrBytes + j / 8 < s.inLen.toNat := by
    have := List.mem_range.1 hj
    omega
  rw [payloadBitOf, payloadBitOf, h.bytes _ hbelow]

end

/-! What the scanner reads. -/

/-- `u` with the scanner registers and `OUT` of `s`. -/
def withScanner (u s : State) : State :=
  { u with outBuf := s.outBuf, decCode := s.decCode, decOvf := s.decOvf, decOnes := s.decOnes, decZeros := s.decZeros,
           decHv := s.decHv, decHeld := s.decHeld, decOutcnt := s.decOutcnt }

variable (u : State)

theorem append_withScanner (x : Sym) (s : State) : append x (withScanner u s) = withScanner u (append x s) := by
  unfold append
  rw [apply_ite (withScanner u)]
  rfl

theorem endOnes_withScanner (s : State) : endOnes (withScanner u s) = withScanner u (endOnes s) := by
  have hones : (withScanner u s).decOnes = s.decOnes := rfl
  unfold endOnes classify
  rw [hones]
  split
  · rfl
  · split
    · rw [append_withScanner]
      rfl
    · rw [append_withScanner]
      rfl
    · rfl

theorem close_withScanner (t : SymTab) (s : State) : close t (withScanner u s) = withScanner u (close t s) := by
  have hresolve : resolveCode t (withScanner u s) = resolveCode t s := rfl
  have hheld : (clearCode (withScanner u s)).decHv = (clearCode s).decHv := rfl
  unfold close takeNibble
  rw [hresolve, hheld]
  cases resolveCode t s with
  | none => rfl
  | some n => cases (clearCode s).decHv <;> rfl

theorem closeAtThird_withScanner (t : SymTab) (s : State) :
    closeAtThird t (withScanner u s) = withScanner u (closeAtThird t s) := by
  unfold closeAtThird
  rw [apply_ite (withScanner u), close_withScanner]
  rfl

theorem stepZero_withScanner (t : SymTab) (s : State) :
    stepZero t (withScanner u s) = withScanner u (stepZero t s) := by
  rw [stepZero, endOnes_withScanner, closeAtThird_withScanner]
  rfl

theorem scanBits_withScanner (t : SymTab) (bits : Bits) (s : State) :
    scanBits t bits (withScanner u s) = withScanner u (scanBits t bits s) := by
  induction bits generalizing s with
  | nil => rfl
  | cons b bits ih =>
    cases b with
    | true => exact ih (stepOne s)
    | false => exact (congrArg (scanBits t bits) (stepZero_withScanner u t s)).trans (ih (stepZero t s))

theorem dropLoneNibble_withScanner (s : State) :
    dropLoneNibble (withScanner u s) = withScanner u (dropLoneNibble s) := by
  have hheld : (withScanner u s).decHv = s.decHv := rfl
  unfold dropLoneNibble
  rw [hheld]
  cases s.decHv <;> rfl

theorem endOfStream_withScanner (t : SymTab) (s : State) :
    endOfStream t (withScanner u s) = withScanner u (endOfStream t s) := by
  rw [endOfStream, endOnes_withScanner, close_withScanner, dropLoneNibble_withScanner, endOfStream]

/-- A scan ends in the same scanner registers and `OUT` from any state: it begins with `ScanInit` and a new buffer. -/
theorem scan_eq_withScanner (t : SymTab) (bits : Bits) (s s' : State) :
    endOfStream t (scanBits t bits (scanInit (openOut s'))) =
      withScanner (openOut s') (endOfStream t (scanBits t bits (scanInit (openOut s)))) := by
  have hinit : scanInit (openOut s') = withScanner (openOut s') (scanInit (openOut s)) := rfl
  rw [hinit, scanBits_withScanner, endOfStream_withScanner]

/-! The result. -/

/-- The result registers and the listed bytes of `OUT` agree. -/
structure SameOutput (t t' : State) : Prop where
  status : t.status = t'.status
  outLen : t.outLen = t'.outLen
  outBuf : t.outBuf = t'.outBuf

/-- A result whose bytes are all listed is the same wherever the listed bytes are. -/
theorem SameOutput.sameResult {t t' : State} (h : SameOutput t t')
    (hlisted : ∀ a, a < t.outLen.toNat → (Memory.read t.outBuf a).isSome = true) : SameResult t t' := by
  refine ⟨h.status, h.outLen, fun a ha => ?_⟩
  obtain ⟨b, hb⟩ := Option.isSome_iff_exists.1 (hlisted a ha)
  rw [outByte, outByte, ← h.outBuf, hb, Option.getD_some, Option.getD_some]

theorem writeBytes_outBuf_congr {s s' : State} (h : s.outBuf = s'.outBuf) (a : Nat) (vs : List Byte) :
    (writeBytes a vs s).outBuf = (writeBytes a vs s').outBuf := by
  induction vs generalizing a s s' with
  | nil => exact h
  | cons v vs ih => exact ih (by rw [memWrite_outBuf, memWrite_outBuf, h]) (a + 1)

theorem writeFrame_sameOutput (P : Bits) (s s' : State) : SameOutput (writeFrame P s) (writeFrame P s') :=
  ⟨rfl, rfl, writeBytes_outBuf_congr (s := openOut s) (s' := openOut s') rfl 0 (frameBytes P)⟩

theorem decodeScan_sameOutput (t : SymTab) (bits : Bits) (s s' : State) :
    SameOutput (decodeScan t bits s) (decodeScan t bits s') := by
  refine ⟨rfl, ?_, ?_⟩
  · rw [decodeScan_outLen, decodeScan_outLen, scan_eq_withScanner t bits s s']
    rfl
  · rw [decodeScan_outBuf, decodeScan_outBuf, scan_eq_withScanner t bits s s']
    rfl

/-- A command with the same input ends the same way (R82, R122). -/
theorem command_sameOutput {i : Instr} {s s' t : State} (hi : isCommand i = true) (h : SameInput s s')
    (hexec : exec i s = .next t) : ∃ t', exec i s' = .next t' ∧ SameOutput t t' := by
  rcases exec_cases hexec with ⟨rfl, hadm, rfl⟩ | ⟨rfl, hlen, rfl⟩ | ⟨rfl, hlen, rfl⟩ | ⟨hnot, -⟩
  · have hadm' : EncodeAdmitted Config.params s' := by rwa [EncodeAdmitted, ← h.inLen]
    refine ⟨_, encodeWith_of_admitted hadm', ?_⟩
    rw [h.inBytes_eq]
    exact writeFrame_sameOutput _ s s'
  · exact ⟨_, decodeWith_of_short (by rwa [← h.inLen]), ⟨rfl, rfl, rfl⟩⟩
  · refine ⟨_, decodeWith_of_header (by rwa [← h.inLen]), ?_⟩
    rw [h.payloadBits_scanCount_eq, h.scanCount_eq, h.headerValue_eq hlen]
    exact decodeScan_sameOutput _ _ s s'
  · exact absurd (hi.symm.trans hnot) (by decide)

theorem command_sameResult {i : Instr} {s s' t : State} (hi : isCommand i = true) (h : SameInput s s')
    (hexec : exec i s = .next t) : ∃ t', exec i s' = .next t' ∧ SameResult t t' := by
  obtain ⟨t', hexec', hout⟩ := command_sameOutput hi h hexec
  exact ⟨t', hexec', hout.sameResult fun a => (command_listsExactly hi hexec a).2⟩

theorem KeepsInputs.sameInput {s t : State} (h : KeepsInputs s t) : SameInput s t :=
  ⟨h.inLen.symm, fun a _ => by rw [inByte, inByte, h.inBuf, h.instanceNo, h.inDraw]⟩

/-- Settles O44: `command_sameResult`; a command keeps its input (R40), so its second run has the same one. -/
theorem resultDependsOnlyOnInput : Obligations.ResultDependsOnlyOnInput :=
  ⟨fun _ _ _ _ => command_sameResult, fun _ _ _ hi hexec =>
    command_sameResult hi (exec_keepsInputs hexec).sameInput hexec⟩

end Sys2Proof.Machine
end

section
/-! PROOFS. Several instances: a host action replaces one state of the list. -/

namespace Sys2Proof.Machine

namespace System

theorem act_of_absent {S : System} {k : Nat} (h : S.instances[k]? = none) (a : HostAction) : S.act k a = .next S := by
  rw [act, h]

theorem act_of_present {S : System} {k : Nat} {s t : State} {a : HostAction} (h : S.instances[k]? = some s)
    (hact : hostAct a s = .next t) : S.act k a = .next { instances := S.instances.set k t } := by
  rw [act, h]
  exact congrArg (put S k) hact

/-- All that an action which completes can have done. -/
theorem act_cases {S S' : System} {k : Nat} {a : HostAction} (h : S.act k a = .next S') :
    (S.instances[k]? = none ∧ S' = S) ∨
    ∃ s t, S.instances[k]? = some s ∧ hostAct a s = .next t ∧ S' = { instances := S.instances.set k t } := by
  cases hk : S.instances[k]? with
  | none => exact .inl ⟨rfl, Host.Outcome.next.inj (h.symm.trans (act_of_absent hk a))⟩
  | some s =>
    rw [act, hk] at h
    change put S k (hostAct a s) = .next S' at h
    cases hact : hostAct a s with
    | next t =>
      rw [hact] at h
      exact .inr ⟨s, t, rfl, hact, (Host.Outcome.next.inj h).symm⟩
    | fault f | refused r =>
      rw [hact] at h
      cases h

theorem act_getElem?_ne {S S' : System} {k j : Nat} {a : HostAction} (h : S.act k a = .next S') (hj : j ≠ k) :
    S'.instances[j]? = S.instances[j]? := by
  rcases act_cases h with ⟨-, rfl⟩ | ⟨s, t, -, -, rfl⟩
  · rfl
  · exact List.getElem?_set_ne hj.symm

/-- An action does the same where the state at another place has been replaced. -/
theorem act_set_ne {S A : System} {k j : Nat} {a : HostAction} (h : S.act k a = .next A) (hkj : k ≠ j) (u : State) :
    act { instances := S.instances.set j u } k a = .next { instances := A.instances.set j u } := by
  have hlookup : (S.instances.set j u)[k]? = S.instances[k]? := List.getElem?_set_ne hkj.symm
  rcases act_cases h with ⟨hk, rfl⟩ | ⟨s, t, hk, hact, rfl⟩
  · exact act_of_absent (hlookup.trans hk) a
  · rw [act_of_present (hlookup.trans hk) hact, List.set_comm _ _ hkj]

/-- Actions on different instances commute (R45). -/
theorem act_comm {S A B C : System} {k j : Nat} {a b : HostAction} (hkj : k ≠ j) (hA : S.act k a = .next A)
    (hB : A.act j b = .next B) (hC : S.act j b = .next C) : C.act k a = .next B := by
  have hlookup := act_getElem?_ne hA hkj.symm
  rcases act_cases hB with ⟨hj, rfl⟩ | ⟨s, t, hj, hact, rfl⟩
  · obtain rfl := Host.Outcome.next.inj ((act_of_absent (hlookup.symm.trans hj) b).symm.trans hC)
    exact hA
  · obtain rfl := Host.Outcome.next.inj ((act_of_present (hlookup.symm.trans hj) hact).symm.trans hC)
    exact act_set_ne hA hkj t

end System

/-- Settles O56: an action replaces the state at its own place (`System.act_cases`), and replacements at different
places commute. -/
theorem instancesAreIndependent : Obligations.InstancesAreIndependent :=
  ⟨fun _ _ _ _ _ => System.act_getElem?_ne, fun _ _ _ _ _ _ _ _ => System.act_comm⟩

end Sys2Proof.Machine
end

section
/-! PROOFS. The words of the opcode table: a rendered code can be read back, and decoding and encoding are inverse. -/

namespace Sys2Proof

/-! Rendered codes (R55, R69). -/

/-- What follows the first element of a rendered code is nothing, or the gap and the rest of the code. -/
theorem render_cons (x : Sym) (c : Code) :
    render (x :: c) = symBits x ++ if c = [] then [] else false :: render c := by
  cases c with
  | nil => simp [render]
  | cons y c => simp [render, gapIntraBits, gapIntraWidth]

theorem render_cons_ne_nil (x : Sym) (c : Code) : render (x :: c) ≠ [] := by
  rw [render_cons]
  cases x <;> exact List.cons_ne_nil _ _

/-- Two elements that no further `1` follows are told apart by their ones (R55). -/
theorem symBits_append_injective {x y : Sym} {p q : Bits} (hp : p.head? ≠ some true) (hq : q.head? ≠ some true)
    (h : symBits x ++ p = symBits y ++ q) : x = y ∧ p = q := by
  match x, y, h with
  | .dot, .dot, h | .dash, .dash, h => exact ⟨rfl, List.append_cancel_left h⟩
  | .dot, .dash, h => exact absurd (congrArg List.head? (List.cons.inj h).2) hp
  | .dash, .dot, h => exact absurd (congrArg List.head? (List.cons.inj h).2.symm) hq

theorem render_injective {c d : Code} (h : render c = render d) : c = d := by
  induction c generalizing d with
  | nil =>
    cases d with
    | nil => rfl
    | cons y d => exact absurd h.symm (render_cons_ne_nil y d)
  | cons x c ih =>
    cases d with
    | nil => exact absurd h (render_cons_ne_nil x c)
    | cons y d =>
      have hhead (e : Code) : (if e = [] then [] else false :: render e).head? ≠ some true := by
        split <;> simp
      rw [render_cons, render_cons] at h
      obtain ⟨rfl, htail⟩ := symBits_append_injective (hhead c) (hhead d) h
      by_cases hc : c = []
      · by_cases hd : d = []
        · rw [hc, hd]
        · simp [hc, hd] at htail
      · by_cases hd : d = []
        · simp [hc, hd] at htail
        · rw [if_neg hc, if_neg hd] at htail
          rw [ih (List.cons.inj htail).2]

/-- Settles O5: the elements of a rendered code are read back one by one. -/
theorem renderInjective : Obligations.RenderInjective := fun _ _ => render_injective

/-! The rows of the nibble codes, by their nibble. -/

/-- A search of the sixteen nibbles for a property that one nibble alone has finds it. -/
theorem find?_allNibbles_of_unique {p : Nibble → Bool} {v : Nibble} (hv : p v = true)
    (huniq : ∀ w, p w = true → w = v) : allNibbles.find? p = some v := by
  cases hfind : allNibbles.find? p with
  | none => exact absurd hv (List.find?_eq_none.1 hfind v (mem_allNibbles v))
  | some w => rw [huniq w (List.find?_some hfind)]

/-- R72, item 1. -/
theorem inv_entry {t : SymTab} (ht : SymTab.admissible t = true) (v : Nibble) : inv t (t v) = some v := by
  obtain ⟨-, hinj, -, -⟩ := (SymTab.admissible_iff t).1 ht
  exact find?_allNibbles_of_unique (decide_eq_true rfl) fun w hw => hinj w v (of_decide_eq_true hw)

theorem nibInstr_nibble? (v : Nibble) : (nibInstr v).nibble? = some v := by
  revert v
  decide

theorem eq_nibInstr_of_nibble? {i : Instr} {v : Nibble} (h : i.nibble? = some v) : i = nibInstr v := by
  cases i <;> cases h <;> rfl

theorem encodeIn_of_nibble? {i : Instr} {v : Nibble} (t : SymTab) (h : i.nibble? = some v) :
    encodeIn t i = { format := .nibbleCode, bits := render (t v) } := by
  cases i <;> cases h <;> rfl

/-- R66 and the injectivity of `render`: only the entry `v` renders to these bits. -/
theorem decodeNibbleWord_render {t : SymTab} (ht : SymTab.admissible t = true) (v : Nibble) :
    decodeNibbleWord t (render (t v)) = .ok (nibInstr v) := by
  obtain ⟨-, hinj, -, -⟩ := (SymTab.admissible_iff t).1 ht
  have hfind : (allNibbles.find? fun w => decide (render (t w) = render (t v))) = some v :=
    find?_allNibbles_of_unique (decide_eq_true rfl) fun w hw =>
      hinj w v (render_injective (of_decide_eq_true hw))
  rw [decodeNibbleWord, hfind]

theorem decodeNibbleWord_eq_ok {t : SymTab} {w : Bits} {i : Instr} (h : decodeNibbleWord t w = .ok i) :
    ∃ v, i = nibInstr v ∧ render (t v) = w := by
  unfold decodeNibbleWord at h
  split at h
  · rename_i v hfind
    exact ⟨v, (Except.ok.inj h).symm, of_decide_eq_true (List.find?_some hfind :)⟩
  · cases h

/-! Decoding and encoding. -/

theorem decodeIn_encodeIn {t : SymTab} (ht : SymTab.admissible t = true) (i : Instr) :
    decodeIn t (encodeIn t i) = .ok i := by
  cases hv : i.nibble? with
  | some v =>
    rw [encodeIn_of_nibble? t hv, eq_nibInstr_of_nibble? hv]
    exact decodeNibbleWord_render ht v
  | none =>
    cases i with
    | encode | decode | dot | dash | gapIntra | gapNibble | gapByte => rfl
    | _ => cases hv

/-- Settles O2: a nibble code is found by `decodeNibbleWord_render`; the other words are the same under every table. -/
theorem decodeInvertsEncode : Obligations.DecodeInvertsEncode :=
  ⟨fun _ i ht => decodeIn_encodeIn ht i, decodeIn_encodeIn Config.symtab_admissible⟩

theorem encodeIn_of_decodeCommandWord {w : Bits} {i : Instr} (t : SymTab) (h : decodeCommandWord w = .ok i) :
    encodeIn t i = { format := .command, bits := w } := by
  unfold decodeCommandWord at h
  split at h
  · rename_i op
    cases op <;> cases h <;> rfl
  · cases h

theorem encodeIn_of_decodeElementWord {w : Bits} {i : Instr} (t : SymTab) (h : decodeElementWord w = .ok i) :
    encodeIn t i = { format := .element, bits := w } := by
  unfold decodeElementWord at h
  split_ifs at h <;> cases h <;> subst_vars <;> rfl

/-- Settles O3: layer by layer, each branch of the decoder has compared the word with the row's bits. -/
theorem encodeInvertsDecode : Obligations.EncodeInvertsDecode := by
  rintro t ⟨format, w⟩ i h
  cases format with
  | command => exact encodeIn_of_decodeCommandWord t h
  | element => exact encodeIn_of_decodeElementWord t h
  | nibbleCode =>
    obtain ⟨v, rfl, rfl⟩ := decodeNibbleWord_eq_ok (h :)
    exact encodeIn_of_nibble? t (nibInstr_nibble? v)

/-- Settles O1: the words of the two entries that the source gives (R67) are the encodings of their rows; the others are
computed. -/
theorem tableWordsDecode : Obligations.TableWordsDecode := by
  obtain ⟨-, -, h0, hF⟩ := (SymTab.admissible_iff _).1 Config.symtab_admissible
  have hnib0 : encode .nib0 = { format := .nibbleCode, bits := render sourceCode0 } := by rw [← h0]; rfl
  have hnibF : encode .nibF = { format := .nibbleCode, bits := render sourceCodeF } := by rw [← hF]; rfl
  exact ⟨rfl, rfl, rfl, rfl, rfl, rfl, rfl, rfl, rfl, hnib0 ▸ decodeIn_encodeIn Config.symtab_admissible .nib0,
    hnibF ▸ decodeIn_encodeIn Config.symtab_admissible .nibF, rfl, rfl⟩

end Sys2Proof
end

section
/-! PROOFS. How the scanner reads a run of ones, a run of zeros, and a nibble code with the gap after it. -/

namespace Sys2Proof.Machine

/-! A run of ones (R56, R92). -/

/-- Ones end any run of zeros and extend the run of ones, saturating at 4. -/
theorem scanBits_ones (t : SymTab) {r : Nat} (hr : 1 ≤ r) (s : State) :
    scanBits t (List.replicate r true) s = setOnes ⟨min (s.decOnes.val + r) 4, by omega⟩ (setZeros 0 s) := by
  induction r, hr using Nat.le_induction generalizing s with
  | base => rfl
  | succ r _ ih =>
    have hsat : min (min (s.decOnes.val + 1) 4 + r) 4 = min (s.decOnes.val + (r + 1)) 4 := by omega
    exact (ih (stepOne s)).trans (congrArg (fun k => setOnes k (setZeros 0 s)) (Fin.ext hsat))

/-- Settles O28: the elements of the two symbols are runs of one and of three ones. -/
theorem dotAndDashExtendTheRunOfOnes : Obligations.DotAndDashExtendTheRunOfOnes := by
  intro s
  have hones (i : Instr) (r : Nat) (hi : isCommand i = false) (hbits : instrBits i = List.replicate r true)
      (hr : 1 ≤ r) : ∃ t, exec i s = .next t ∧ t.decZeros = 0 ∧ t.decOnes.val = min (s.decOnes.val + r) 4 ∧
        t = setOnes t.decOnes (setZeros 0 s) :=
    ⟨_, (exec_of_not_isCommand hi s).trans (by rw [hbits, scanBits_ones _ hr]), rfl, rfl, rfl⟩
  exact ⟨hones .dot 1 rfl rfl (by decide), hones .dash 3 rfl rfl (by decide)⟩

/-- The end of a run of `r` ones, of which the register has kept the smaller of `r` and 4 (R94). -/
theorem endOnes_setOnes {r : Nat} (hr : 1 ≤ r) (hlt : min r 4 < 5) (s : State) :
    endOnes (setOnes ⟨min r 4, hlt⟩ s) =
      setOnes 0 (if r = 1 then append .dot s else if r = 3 then append .dash s else s) := by
  have hne : (⟨min r 4, hlt⟩ : Fin 5) ≠ 0 := Fin.ne_of_val_ne (show min r 4 ≠ 0 by omega)
  rw [endOnes, setOnes_decOnes, if_neg hne]
  by_cases h1 : r = 1
  · subst h1
    change setOnes 0 (append .dot (setOnes 1 s)) = setOnes 0 (append .dot s)
    rw [append_setOnes, setOnes_setOnes]
  · by_cases h3 : r = 3
    · subst h3
      change setOnes 0 (append .dash (setOnes 3 s)) = setOnes 0 (append .dash s)
      rw [append_setOnes, setOnes_setOnes]
    · rw [if_neg h1, if_neg h3]
      unfold classify
      split
      · rename_i hval
        exact absurd (show min r 4 = 1 from hval) (by omega)
      · rename_i hval
        exact absurd (show min r 4 = 3 from hval) (by omega)
      · rfl

theorem endOnes_scanBits_ones (t : SymTab) {r : Nat} (hr : 1 ≤ r) {s : State} (h : s.decOnes = 0) :
    endOnes (scanBits t (List.replicate r true) s) =
      setOnes 0 (setZeros 0 (if r = 1 then append .dot s else if r = 3 then append .dash s else s)) := by
  have hrun : scanBits t (List.replicate r true) s = setOnes ⟨min r 4, by omega⟩ (setZeros 0 s) := by
    simp only [scanBits_ones t hr, h, Fin.val_zero, Nat.zero_add]
  rw [hrun, endOnes_setOnes hr, append_setZeros, append_setZeros, ← apply_ite (setZeros 0), ← apply_ite (setZeros 0)]

/-- The first zero after ones ends their run and closes nothing (R93). -/
theorem stepZero_of_decZeros_zero (t : SymTab) {s : State} (h : s.decZeros = 0) :
    stepZero t s = setZeros 1 (endOnes s) := by
  have hz : (endOnes s).decZeros.val = 0 := by rw [endOnes_decZeros, h]; rfl
  rw [stepZero, closeAtThird, if_neg (by omega), bumpZeros]
  exact congrArg (fun z => setZeros z (endOnes s)) (Fin.ext (congrArg (fun n => min (n + 1) 3) hz))

/-- Settles O31: the run is counted, then the zero ends it. -/
theorem onesRunReading : Obligations.OnesRunReading := by
  intro t s r h hr
  have hzeros : (scanBits t (List.replicate r true) s).decZeros = 0 := by rw [scanBits_ones t hr]; rfl
  rw [scanBits_append, scanBits_cons, scanBits_nil, scanBit_false, stepZero_of_decZeros_zero t hzeros,
    endOnes_scanBits_ones t hr h]
  rfl

/-! A run of zeros (R57, R93). -/

/-- A run that begins after ones, or at the start, closes the code exactly when it reaches three zeros. -/
theorem scanBits_zeros_of_decZeros_zero (t : SymTab) {z : Nat} (hz : 1 ≤ z) {s : State} (h : s.decZeros = 0) :
    scanBits t (List.replicate z false) s =
      setZeros ⟨min z 3, by omega⟩ (if 3 ≤ z then close t (endOnes s) else endOnes s) := by
  obtain ⟨k, rfl⟩ := Nat.exists_eq_add_of_le' hz
  rw [scanBits_zeros_endOnes, scanBits_zeros t _ (endOnes_decOnes s)]
  simp only [endOnes_decZeros, h, Fin.val_zero, Nat.zero_add, Nat.zero_le, true_and]

/-- Settles O32: `endOnes` is the state that the statement calls `u`. -/
theorem zerosRunReading : Obligations.ZerosRunReading := by
  rintro t s _ z h rfl
  refine ⟨?_, ?_, fun hz => ?_⟩
  · rintro rfl
    exact scanBits_zeros_of_decZeros_zero t (by decide) h
  · rintro rfl
    exact scanBits_zeros_of_decZeros_zero t (by decide) h
  · rw [scanBits_zeros_of_decZeros_zero t (by omega) h, if_pos hz]
    exact congrArg (fun k => setZeros k _) (Fin.ext (Nat.min_eq_right hz))

/-- Three zeros or more close the code once, unless the zeros before them had closed it; how many they are plays no
part. -/
theorem scanBits_zeros_of_three_le (t : SymTab) {z : Nat} (hz : 3 ≤ z) (s : State) :
    scanBits t (List.replicate z false) s =
      setZeros 3 (if s.decZeros = 3 then endOnes s else close t (endOnes s)) := by
  obtain ⟨k, rfl⟩ := Nat.exists_eq_add_of_le' (Nat.le_trans (by decide : 1 ≤ 3) hz)
  have hsat : min (s.decZeros.val + (k + 1)) 3 = 3 := by omega
  rw [scanBits_zeros_endOnes, scanBits_zeros t _ (endOnes_decOnes s)]
  simp only [endOnes_decZeros]
  simp only [hsat]
  refine congrArg (setZeros 3) ?_
  by_cases h3 : s.decZeros = 3
  · rw [if_pos h3, if_neg (by rw [h3]; simp)]
  · have hlt : s.decZeros.val ≠ 3 := fun h => h3 (Fin.ext h)
    rw [if_neg h3, if_pos (by omega)]

/-- Settles O30: `G3` and `G7` are both runs of three zeros or more. -/
theorem gapNibbleAndGapByteCloseOnce : Obligations.GapNibbleAndGapByteCloseOnce := by
  intro s
  have hgap (i : Instr) (hi : isCommand i = false) (z : Nat) (hz : 3 ≤ z)
      (hbits : instrBits i = List.replicate z false) : exec i s = .next
        (setZeros 3 (if s.decZeros = 3 then endOnes s else close Config.symtab (endOnes s))) := by
    rw [exec_of_not_isCommand hi, hbits, scanBits_zeros_of_three_le _ hz]
  have hnibble := hgap .gapNibble rfl 3 (by decide) rfl
  exact ⟨(hgap .gapByte rfl 7 (by decide) rfl).trans hnibble.symm, _, hnibble, rfl⟩

/-- Settles O27: the scan goes on from the same state after either gap. -/
theorem gapWidthDoesNotMatter : Obligations.GapWidthDoesNotMatter := by
  intro t left right z z' s hz hz'
  have hscan : scanBits t (left ++ List.replicate z false ++ right) (scanInit (openOut s)) =
      scanBits t (left ++ List.replicate z' false ++ right) (scanInit (openOut s)) := by
    simp only [scanBits_append, scanBits_zeros_of_three_le t hz, scanBits_zeros_of_three_le t hz']
  rw [decodeScan, decodeScan, hscan]

/-! A nibble code and the gap after it (R69, R96). -/

/-- The last element of a rendered code is complete when its run of ones ends: the symbols are in `DEC_CODE`. -/
theorem endOnes_scanBits_render (t : SymTab) {c : Code} (hc : c ≠ []) {s : State} (hones : s.decOnes = 0)
    (hlen : s.decCode.length + c.length ≤ 4) :
    endOnes (scanBits t (render c) s) = setOnes 0 (setZeros 0 { s with decCode := s.decCode ++ c }) := by
  have hsym (x : Sym) {s : State} (hones : s.decOnes = 0) (hlen : s.decCode.length < 4) :
      endOnes (scanBits t (symBits x) s) = setOnes 0 (setZeros 0 (pushSym x s)) := by
    have happend : append x s = pushSym x s := if_pos hlen
    rw [← happend]
    cases x with
    | dot => exact endOnes_scanBits_ones t (r := 1) (by decide) hones
    | dash => exact endOnes_scanBits_ones t (r := 3) (by decide) hones
  induction c using render.induct generalizing s with
  | case1 => exact absurd rfl hc
  | case2 x => exact hsym x hones (by simpa using hlen)
  | case3 x y c ih =>
    simp only [List.length_cons] at hlen ih
    obtain ⟨-, hzeros⟩ := scanBits_symBits_outKept t x s
    have hgap : scanBits t gapIntraBits (scanBits t (symBits x) s) = setZeros 1 (setOnes 0 (pushSym x s)) := by
      change stepZero t _ = _
      rw [stepZero_of_decZeros_zero t hzeros, hsym x hones (by omega)]
      rfl
    rw [render, scanBits_append, scanBits_append, hgap, ih (by simp) rfl (by simp; omega)]
    simp [setZeros, setOnes, pushSym]

theorem takeNibble_setZeros (n : Nibble) (z : Fin 4) (s : State) :
    takeNibble n (setZeros z s) = setZeros z (takeNibble n s) := by
  unfold takeNibble
  rw [setZeros_decHv]
  cases s.decHv <;> rfl

/-- From a fresh code, a nibble's code and a gap of three zeros or more are read as the nibble, whatever is held. -/
theorem scanBits_render_gap {t : SymTab} (ht : SymTab.admissible t = true) (v : Nibble) {z : Nat} (hz : 3 ≤ z)
    {s : State} (hones : s.decOnes = 0) (hcode : s.decCode = []) (hovf : s.decOvf = false) :
    scanBits t (List.replicate z false) (scanBits t (render (t v)) s) = setZeros 3 (takeNibble v s) := by
  obtain ⟨hlen, -, -, -⟩ := (SymTab.admissible_iff t).1 ht
  obtain ⟨hpos, hle⟩ := hlen v
  have hend : endOnes (scanBits t (render (t v)) s) = setZeros 0 { s with decCode := t v } := by
    rw [endOnes_scanBits_render t (List.length_pos_iff.1 hpos) hones (by simpa [hcode] using hle), hcode]
    cases s
    cases hones
    rfl
  have hzeros : (scanBits t (render (t v)) s).decZeros = 0 := by rw [← endOnes_decZeros, hend]; rfl
  have hresolve : resolveCode t { s with decCode := t v } = some v := by
    simp [resolveCode, hovf, inv_entry ht v]
  have hclear : clearCode { s with decCode := t v } = s := by
    cases s
    cases hcode
    cases hovf
    rfl
  rw [scanBits_zeros_of_three_le t hz, hzeros, if_neg (by decide), hend, close_setZeros, close, hresolve, hclear]
  rfl

theorem byteOfNibbles_toNat (hi lo : Nibble) : (byteOfNibbles hi lo).toNat = hi.toNat * 16 + lo.toNat := by
  rw [byteOfNibbles, BitVec.toNat_ofNat]
  omega

theorem instrBits_of_nibble? {i : Instr} {v : Nibble} (h : i.nibble? = some v) :
    instrBits i = render (Config.symtab v) := congrArg TableWord.bits (encodeIn_of_nibble? Config.symtab h)

theorem not_isCommand_of_nibble? {i : Instr} {v : Nibble} (h : i.nibble? = some v) : isCommand i = false := by
  cases i with
  | encode | decode => cases h
  | _ => rfl

/-- Settles O38: the row and the gap take the nibble (`scanBits_render_gap`), which `takeNibble` holds or emits. -/
theorem nibbleCodeReadsBackAsItsNibble : Obligations.NibbleCodeReadsBackAsItsNibble := by
  intro i gap v s hi hgap hones hcode hovf
  have hread : ∃ t, exec i s = .next t ∧ exec gap t = .next (setZeros 3 (takeNibble v s)) := by
    refine ⟨_, exec_of_not_isCommand (not_isCommand_of_nibble? hi) s, ?_⟩
    rw [instrBits_of_nibble? hi]
    rcases hgap with rfl | rfl
    · exact congrArg Host.Outcome.next
        (scanBits_render_gap (z := 3) Config.symtab_admissible v (by decide) hones hcode hovf)
    · exact congrArg Host.Outcome.next
        (scanBits_render_gap (z := 7) Config.symtab_admissible v (by decide) hones hcode hovf)
  obtain ⟨t, hrow, hnext⟩ := hread
  refine ⟨t, _, hrow, hnext, ?_⟩
  cases hv : s.decHv with
  | false =>
    have htake : takeNibble v s = holdNibble v s := by rw [takeNibble, hv]
    rw [htake]
    exact ⟨hcode, hovf, hones, fun _ => ⟨rfl, rfl, rfl, rfl⟩, nofun⟩
  | true =>
    have htake : takeNibble v s = emitByte v s := by rw [takeNibble, hv]
    have hout (a : Nat) : outByte (setZeros 3 (emitByte v s)) a =
        if a = s.decOutcnt.toNat then byteOfNibbles s.decHeld v else outByte s a := outByte_memWrite _ _ _ _
    rw [htake]
    refine ⟨hcode, hovf, hones, nofun, fun _ => ⟨rfl, rfl, rfl, ?_, fun a ha => ?_⟩⟩
    · rw [hout, if_pos rfl, byteOfNibbles_toNat]
    · rw [hout, if_neg ha]

end Sys2Proof.Machine
end

section
/-! PROOFS. Streams as rows of the opcode table, and the one refusal of a step. -/

namespace Sys2Proof.Machine

/-! Rows run one by one (R46, R54, R86). -/

theorem runInstrs_eq_scanBits {is : List Instr} (h : ∀ i ∈ is, isCommand i = false) (s : State) :
    runInstrs is s = .next (scanBits Config.symtab (streamBits is) s) := by
  induction is generalizing s with
  | nil => rfl
  | cons i is ih =>
    obtain ⟨hi, his⟩ := List.forall_mem_cons.1 h
    have hbits : streamBits (i :: is) = instrBits i ++ streamBits is := rfl
    rw [hbits, scanBits_append, ← ih his, runInstrs, exec_of_not_isCommand hi]

theorem byteInstrs_not_isCommand (b : Byte) : ∀ i ∈ byteInstrs b, isCommand i = false := by
  have hnib (v : Nibble) : isCommand (nibInstr v) = false := not_isCommand_of_nibble? (nibInstr_nibble? v)
  have hgap : isCommand .gapNibble = false := rfl
  simp [byteInstrs, hnib, hgap]

theorem patternInstrs_not_isCommand (bs : List Byte) : ∀ i ∈ patternInstrs bs, isCommand i = false := by
  induction bs using patternInstrs.induct with
  | case1 => nofun
  | case2 b => exact byteInstrs_not_isCommand b
  | case3 b b' bs ih =>
    simp only [patternInstrs, List.forall_mem_append, List.forall_mem_singleton]
    exact ⟨⟨byteInstrs_not_isCommand b, rfl⟩, ih⟩

theorem streamBits_append (is js : List Instr) : streamBits (is ++ js) = streamBits is ++ streamBits js :=
  List.flatMap_append

theorem streamBits_byteInstrs (b : Byte) : streamBits (byteInstrs b) = bytePattern Config.symtab b := by
  have hgap : instrBits .gapNibble = gapNibbleBits := rfl
  simp [streamBits, byteInstrs, bytePattern, instrBits_of_nibble? (nibInstr_nibble? _), hgap]

theorem streamBits_patternInstrs (bs : List Byte) : streamBits (patternInstrs bs) = pattern Config.symtab bs := by
  induction bs using patternInstrs.induct with
  | case1 => rfl
  | case2 b => exact streamBits_byteInstrs b
  | case3 b b' bs ih =>
    rw [patternInstrs, streamBits_append, streamBits_append, streamBits_byteInstrs, ih]
    rfl

/-- Settles O40: a row reads its bits and completes, so a sequence of rows reads the stream. -/
theorem decodeRunsTheElementsOfItsStream : Obligations.DecodeRunsTheElementsOfItsStream := by
  refine ⟨fun is s his => runInstrs_eq_scanBits his s,
    fun bs => ⟨patternInstrs_not_isCommand bs, streamBits_patternInstrs bs⟩, fun is s his hlen hbits => ?_⟩
  refine ⟨_, runInstrs_eq_scanBits his _, ?_⟩
  rw [← hbits]
  exact decodeWith_of_header hlen

/-! The one refusal (R49, R85). -/

theorem exec_completes_of_ne_encode {i : Instr} (hi : i ≠ .encode) (s : State) : Completes (exec i s) := by
  cases i with
  | encode => exact absurd rfl hi
  | decode =>
    rcases Nat.lt_or_ge s.inLen.toNat hdrBytes with hlen | hlen
    · exact ⟨_, decodeWith_of_short hlen⟩
    · exact ⟨_, decodeWith_of_header hlen⟩
  | _ => exact ⟨_, exec_of_not_isCommand rfl s⟩

theorem exec_eq_refused_iff {i : Instr} {s : State} {r : Refusal} :
    exec i s = .refused r ↔ i = .encode ∧ Config.maxInLen < s.inLen.toNat ∧ r = .inLenBeyondMax := by
  by_cases hi : i = .encode
  · subst hi
    change encodeWith Config.params s = _ ↔ _
    by_cases hadm : EncodeAdmitted Config.params s
    · have hle : ¬ Config.maxInLen < s.inLen.toNat := Nat.not_lt.2 hadm
      simp [encodeWith_of_admitted hadm, hle]
    · have hlt : Config.maxInLen < s.inLen.toNat := Nat.not_le.1 hadm
      simp [encodeWith_of_not_admitted hadm, hlt, eq_comm]
  · obtain ⟨t, ht⟩ := exec_completes_of_ne_encode hi s
    simp [ht, hi]

theorem decodeOp_eq_encode_iff {op : BitVec 1} : decodeOp op = .encode ↔ op = 0#1 := by
  rcases BitVec.eq_zero_or_eq_one op with rfl | rfl <;> decide

/-- Settles O52: a step with a pending command is refused exactly where its instruction is (`exec_eq_refused_iff`). -/
theorem onlyLongEncodeIsRefused : Obligations.OnlyLongEncodeIsRefused := by
  refine ⟨rfl, rfl, fun s r => ?_⟩
  cases hpend : s.cmdPending with
  | true => simp [step_of_pending hpend, exec_eq_refused_iff, decodeOp_eq_encode_iff]
  | false => simp [step_of_not_pending hpend]

end Sys2Proof.Machine
end

section
/-! PROOFS. The grammar of ENCODE's pattern, read off its maximal runs (R54). -/

namespace Sys2Proof.Machine

/-! Maximal runs. -/

/-- The first run of a bit string is one of its first bit. -/
theorem runs_cons_eq (b : Bool) (bs : Bits) : ∃ k rs, runs (b :: bs) = (b, k) :: rs := by
  unfold runs
  split
  · exact ⟨_, _, rfl⟩
  · split
    · subst_vars
      exact ⟨_, _, rfl⟩
    · exact ⟨_, _, rfl⟩

theorem runs_cons_of_head?_ne {b : Bool} {bs : Bits} (h : bs.head? ≠ some b) : runs (b :: bs) = (b, 1) :: runs bs := by
  cases bs with
  | nil => rfl
  | cons c bs =>
    obtain ⟨k, rs, hruns⟩ := runs_cons_eq c bs
    have hne : ¬ b = c := fun heq => h (by rw [heq]; rfl)
    rw [runs, hruns]
    exact if_neg hne

theorem runs_cons_cons_of_runs {b c : Bool} {bs : Bits} {k : Nat} {rs : List (Bool × Nat)}
    (h : runs bs = (c, k) :: rs) :
    runs (b :: bs) = if b = c then (c, k + 1) :: rs else (b, 1) :: (c, k) :: rs := by
  rw [runs, h]

/-- No run goes on across two different bits. -/
theorem runs_append {as bs : Bits} (h : ∀ b, as.getLast? = some b → bs.head? ≠ some b) :
    runs (as ++ bs) = runs as ++ runs bs := by
  induction as with
  | nil => rfl
  | cons a as ih =>
    cases as with
    | nil => exact runs_cons_of_head?_ne (h a rfl)
    | cons a' as =>
      obtain ⟨k, rs, hruns⟩ := runs_cons_eq a' as
      have happend : runs (a' :: as ++ bs) = (a', k) :: (rs ++ runs bs) := by
        rw [ih fun b hb => h b (by rwa [List.getLast?_cons_cons]), hruns, List.cons_append]
      rw [List.cons_append, runs_cons_cons_of_runs happend, runs_cons_cons_of_runs hruns]
      split <;> rfl

theorem runs_replicate (b : Bool) (k : Nat) : runs (List.replicate (k + 1) b) = [(b, k + 1)] := by
  induction k with
  | zero => rfl
  | succ k ih => rw [List.replicate_succ, runs_cons_cons_of_runs ih, if_pos rfl]

/-! What R54 says of the runs of a pattern. -/

/-- A bit string that begins and ends with `1`, has the run lengths of the grammar, and `g3` runs of 3 zeros and `g7` of
7. -/
structure PatternShape (g3 g7 : Nat) (P : Bits) : Prop where
  first : P.head? = some true
  last  : P.getLast? = some true
  ones  : ∀ k, (true, k) ∈ runs P → k = 1 ∨ k = 3
  zeros : ∀ k, (false, k) ∈ runs P → k = 1 ∨ k = 3 ∨ k = 7
  gaps3 : (runs P).count (false, 3) = g3
  gaps7 : (runs P).count (false, 7) = g7

theorem patternShape_symBits (x : Sym) : PatternShape 0 0 (symBits x) := by
  cases x with
  | dot => exact ⟨rfl, rfl, by simp [symBits, runs], by simp [symBits, runs], rfl, rfl⟩
  | dash => exact ⟨rfl, rfl, by simp [symBits, runs], by simp [symBits, runs], rfl, rfl⟩

/-- A gap between two such strings is a run of its own. -/
theorem PatternShape.runs_gap {a3 a7 b3 b7 : Nat} {P Q : Bits} (hP : PatternShape a3 a7 P) (hQ : PatternShape b3 b7 Q)
    {z : Nat} (hz : 1 ≤ z) : runs (P ++ List.replicate z false ++ Q) = runs P ++ (false, z) :: runs Q := by
  obtain ⟨k, rfl⟩ := Nat.exists_eq_add_of_le' hz
  have hstart : ∀ b, P.getLast? = some b → (List.replicate (k + 1) false ++ Q).head? ≠ some b := by
    rintro b hb
    obtain rfl := Option.some.inj (hP.last.symm.trans hb)
    simp [List.replicate_succ]
  have hstop : ∀ b, (List.replicate (k + 1) false).getLast? = some b → Q.head? ≠ some b := by
    rintro b hb
    obtain rfl := List.eq_of_mem_replicate (List.mem_of_getLast? hb)
    simp [hQ.first]
  rw [List.append_assoc, runs_append hstart, runs_append hstop, runs_replicate]
  rfl

/-- Joining by a gap of the grammar adds the gap's own run. -/
theorem PatternShape.gap {a3 a7 b3 b7 : Nat} {P Q : Bits} (hP : PatternShape a3 a7 P) (hQ : PatternShape b3 b7 Q)
    {z : Nat} (hz : z = 1 ∨ z = 3 ∨ z = 7) :
    PatternShape (a3 + (b3 + [z].count 3)) (a7 + (b7 + [z].count 7)) (P ++ List.replicate z false ++ Q) := by
  have hruns := hP.runs_gap hQ (z := z) (by omega)
  refine ⟨?_, ?_, fun k hk => ?_, fun k hk => ?_, ?_, ?_⟩
  · simp [List.head?_append, hP.first]
  · simp [List.getLast?_append, hQ.last]
  · rw [hruns, List.mem_append, List.mem_cons] at hk
    rcases hk with hk | hk | hk
    · exact hP.ones k hk
    · cases hk
    · exact hQ.ones k hk
  · rw [hruns, List.mem_append, List.mem_cons] at hk
    rcases hk with hk | hk | hk
    · exact hP.zeros k hk
    · obtain ⟨-, rfl⟩ := Prod.mk.inj hk
      exact hz
    · exact hQ.zeros k hk
  · rw [hruns, List.count_append, List.count_cons, hP.gaps3, hQ.gaps3]
    simp [List.count_cons]
  · rw [hruns, List.count_append, List.count_cons, hP.gaps7, hQ.gaps7]
    simp [List.count_cons]

theorem patternShape_render {c : Code} (h : c ≠ []) : PatternShape 0 0 (render c) := by
  induction c using render.induct with
  | case1 => exact absurd rfl h
  | case2 x => exact patternShape_symBits x
  | case3 x y c ih => exact (patternShape_symBits x).gap (z := 1) (ih (by simp)) (.inl rfl)

theorem patternShape_bytePattern {t : SymTab} (ht : SymTab.admissible t = true) (b : Byte) :
    PatternShape 1 0 (bytePattern t b) := by
  obtain ⟨hlen, -, -, -⟩ := (SymTab.admissible_iff t).1 ht
  have hcode (v : Nibble) : PatternShape 0 0 (render (t v)) :=
    patternShape_render (List.length_pos_iff.1 (hlen v).1)
  exact (hcode (hiNibble b)).gap (z := 3) (hcode (loNibble b)) (.inr (.inl rfl))

theorem patternShape_pattern {t : SymTab} (ht : SymTab.admissible t = true) {bs : List Byte} (h : bs ≠ []) :
    PatternShape bs.length (bs.length - 1) (pattern t bs) := by
  induction bs using pattern.induct with
  | case1 => exact absurd rfl h
  | case2 b => exact patternShape_bytePattern ht b
  | case3 b b' bs ih =>
    have hjoin := (patternShape_bytePattern ht b).gap (z := 7) (ih (by simp)) (.inr (.inr rfl))
    have hgaps3 : (b :: b' :: bs).length = 1 + ((b' :: bs).length + [7].count 3) := by simp; omega
    have hgaps7 : (b :: b' :: bs).length - 1 = 0 + ((b' :: bs).length - 1 + [7].count 7) := by simp
    rw [hgaps7, hgaps3]
    exact hjoin

theorem pattern_eq_intercalate (t : SymTab) (bs : List Byte) :
    pattern t bs = List.intercalate gapByteBits (bs.map (bytePattern t)) := by
  induction bs using pattern.induct with
  | case1 => rfl
  | case2 b => simp [pattern]
  | case3 b b' bs ih => simp [pattern, ih]

/-- Settles O15: the runs of a byte's pattern are those of its codes with the gap's between them, and so on for the
bytes. -/
theorem patternGrammar : Obligations.PatternGrammar := by
  refine ⟨pattern_eq_intercalate, fun t ht bs hbs => ?_⟩
  obtain ⟨first, last, ones, zeros, gaps3, gaps7⟩ := patternShape_pattern ht hbs
  exact ⟨first, last, ones, zeros, gaps3, gaps7⟩

end Sys2Proof.Machine
end

section
/-! PROOFS. The symbol table: rendered codes and their lengths, the inverse lookup, and the machine's own table. -/

namespace Sys2Proof

/-! Rendered codes (R69, R70). -/

theorem render_eq_intercalate (c : Code) : render c = List.intercalate [false] (c.map symBits) := by
  induction c using render.induct with
  | case1 => rfl
  | case2 x => simp [render]
  | case3 x y c ih => simp [render, gapIntraBits, gapIntraWidth, ih]

theorem count_false_symBits (x : Sym) : (symBits x).count false = 0 := by cases x <;> rfl

/-- The zeros of a rendered code are those of its gaps. -/
theorem count_false_render (c : Code) : (render c).count false = c.length - 1 := by
  induction c using render.induct with
  | case1 => rfl
  | case2 x => exact count_false_symBits x
  | case3 x y c ih => simp [render, gapIntraBits, gapIntraWidth, count_false_symBits, ih]

/-- Settles O4: the first and the last bit are those of `patternShape_render`. -/
theorem renderIsElementsSeparatedByGaps : Obligations.RenderIsElementsSeparatedByGaps :=
  ⟨render_eq_intercalate, rfl, rfl, rfl, fun c hc =>
    have hshape := Machine.patternShape_render hc
    ⟨hshape.first, hshape.last, count_false_render c⟩⟩

theorem count_true_symBits (x : Sym) : (symBits x).count true = [x].count .dot + 3 * [x].count .dash := by
  cases x <;> rfl

/-- The ones of a rendered code are those of its elements. -/
theorem count_true_render (c : Code) : (render c).count true = c.count .dot + 3 * c.count .dash := by
  induction c using render.induct with
  | case1 => rfl
  | case2 x => exact count_true_symBits x
  | case3 x y c ih =>
    have hcount (a : Sym) : (x :: y :: c).count a = [x].count a + (y :: c).count a := List.count_append (l₁ := [x])
    have hgap : gapIntraBits.count true = 0 := rfl
    rw [render, List.count_append, List.count_append, count_true_symBits, hgap, ih, hcount, hcount]
    omega

/-- R70's formula: the ones and the zeros of a rendered code. -/
theorem render_length (c : Code) : (render c).length = c.count .dot + 3 * c.count .dash + (c.length - 1) := by
  rw [← List.count_true_add_count_false, count_true_render, count_false_render]

theorem count_dot_add_count_dash (c : Code) : c.count .dot + c.count .dash = c.length := by
  induction c with
  | nil => rfl
  | cons x c ih => cases x <;> simp <;> omega

/-- R70's range: only a lone dot renders to 1 bit, only four dashes to 15. -/
theorem render_length_range {c : Code} (hpos : 1 ≤ c.length) (hle : c.length ≤ 4) :
    1 ≤ (render c).length ∧ (render c).length ≤ 15 ∧
    ((render c).length = 1 ↔ c = [.dot]) ∧ ((render c).length = 15 ↔ c = [.dash, .dash, .dash, .dash]) := by
  have hlen := render_length c
  have hsum := count_dot_add_count_dash c
  refine ⟨by omega, by omega, ⟨fun h => ?_, fun h => h ▸ rfl⟩, ⟨fun h => ?_, fun h => h ▸ rfl⟩⟩
  · have hdot : c.count .dot = 1 := by omega
    rw [← List.replicate_count_eq_of_count_eq_length (show c.count .dot = c.length by omega), hdot]
    rfl
  · have hdash : c.count .dash = 4 := by omega
    rw [← List.replicate_count_eq_of_count_eq_length (show c.count .dash = c.length by omega), hdash]
    rfl

/-- Settles O6: the lengths of the two source entries (R67) are computed. -/
theorem renderedLength : Obligations.RenderedLength := by
  refine ⟨fun c _ => render_length c, fun c => render_length_range, fun t ht => ?_⟩
  obtain ⟨-, -, h0, hF⟩ := (SymTab.admissible_iff t).1 ht
  rw [h0, hF]
  exact ⟨rfl, rfl⟩

/-! The inverse lookup (R71, R72). -/

theorem inv_eq_some_iff {t : SymTab} (ht : SymTab.admissible t = true) {c : Code} {v : Nibble} :
    inv t c = some v ↔ t v = c :=
  ⟨inv_eq_some c v, fun h => h ▸ inv_entry ht v⟩

/-- Settles O8: `INV` finds the one nibble of an entry, and none where there is no entry. -/
theorem inverseLookup : Obligations.InverseLookup :=
  fun _ ht _ => ⟨fun _ => inv_eq_some_iff ht, inv_eq_none⟩

/-- A code whose length no entry has is not found (R65). -/
theorem inv_eq_none_of_length {t : SymTab} (ht : SymTab.admissible t = true) {c : Code}
    (h : ¬ (1 ≤ c.length ∧ c.length ≤ 4)) : inv t c = none := by
  obtain ⟨hlen, -, -, -⟩ := (SymTab.admissible_iff t).1 ht
  exact inv_eq_none.2 fun v hv => h (hv ▸ hlen v)

theorem mem_codesOfLength {k : Nat} {c : Code} : c ∈ codesOfLength k ↔ c.length = k := by
  induction k generalizing c with
  | zero => simp [codesOfLength]
  | succ k ih =>
    cases c with
    | nil => simp [codesOfLength]
    | cons x c => cases x <;> simp [codesOfLength, ih]

theorem mem_codesUpTo4 {c : Code} : c ∈ codesUpTo4 ↔ 1 ≤ c.length ∧ c.length ≤ 4 := by
  simp only [codesUpTo4, List.mem_append, mem_codesOfLength]
  omega

theorem codesUpTo4_nodup : codesUpTo4.Nodup := by decide

/-- The entries of an admissible table are sixteen different codes (R66). -/
theorem entries_nodup {t : SymTab} (ht : SymTab.admissible t = true) : (allNibbles.map t).Nodup := by
  obtain ⟨-, hinj, -, -⟩ := (SymTab.admissible_iff t).1 ht
  exact List.Nodup.map hinj (by decide)

/-- Among the codes of 1 to 4 symbols, those that `INV` finds are the entries. -/
theorem filter_codesUpTo4_perm {t : SymTab} (ht : SymTab.admissible t = true) :
    (codesUpTo4.filter fun c => (inv t c).isSome).Perm (allNibbles.map t) := by
  obtain ⟨hlen, -, -, -⟩ := (SymTab.admissible_iff t).1 ht
  refine (List.perm_ext_iff_of_nodup (codesUpTo4_nodup.filter _) (entries_nodup ht)).2 fun c => ?_
  have hfound : (inv t c).isSome = true ↔ ∃ v, t v = c := by
    simp only [Option.isSome_iff_exists, inv_eq_some_iff ht]
  simp only [List.mem_filter, mem_codesUpTo4, hfound, List.mem_map, mem_allNibbles, true_and]
  exact and_iff_right_of_imp fun ⟨v, hv⟩ => hv ▸ hlen v

/-- Settles O9: the sixteen codes found are the entries (`filter_codesUpTo4_perm`). -/
theorem inverseProperties : Obligations.InverseProperties := by
  intro t ht
  have hempty : inv t [] = none := inv_eq_none_of_length ht (by decide)
  have hlong (c : Code) (hc : 5 ≤ c.length) : inv t c = none := inv_eq_none_of_length ht (by omega)
  exact ⟨inv_entry ht, hempty, hlong, rfl, fun c => mem_codesUpTo4, codesUpTo4_nodup,
    (filter_codesUpTo4_perm ht).length_eq⟩

/-- Settles O7: the machine's table is admissible whatever was drawn. -/
theorem machineTableIsAdmissible : Obligations.MachineTableIsAdmissible := by
  obtain ⟨hlen, hinj, h0, hF⟩ := (SymTab.admissible_iff _).1 Config.symtab_admissible
  refine ⟨hlen, hinj, entries_nodup Config.symtab_admissible, rfl, h0, hF, ?_⟩
  rw [h0, hF]
  decide

end Sys2Proof
end

section
/-! PROOFS. A nibble code run alone: what the scanner keeps while it reads a rendered code, and the unended run of ones
after it. -/

namespace Sys2Proof.Machine

/-! The frame. -/

/-- Only the code, its overflow flag and the two run counters differ. -/
def OnlyCodeAndRuns (s t : State) : Prop :=
  t = { s with decCode := t.decCode, decOvf := t.decOvf, decOnes := t.decOnes, decZeros := t.decZeros }

theorem OnlyCodeAndRuns.refl (s : State) : OnlyCodeAndRuns s s := rfl

theorem OnlyCodeAndRuns.trans {s t u : State} (h : OnlyCodeAndRuns s t) (k : OnlyCodeAndRuns t u) :
    OnlyCodeAndRuns s u := by
  unfold OnlyCodeAndRuns at h
  exact Eq.trans k (by rw [h])

theorem endOnes_onlyCodeAndRuns (s : State) : OnlyCodeAndRuns s (endOnes s) := by
  rw [endOnes_eq]
  rfl

/-- The element of a symbol extends the run of ones. -/
theorem scanBits_symBits (t : SymTab) (x : Sym) (s : State) :
    scanBits t (symBits x) s = setOnes ⟨min (s.decOnes.val + (symBits x).length) 4, by omega⟩ (setZeros 0 s) := by
  cases x with
  | dot => exact scanBits_ones t (r := 1) (by decide) s
  | dash => exact scanBits_ones t (r := 3) (by decide) s

/-- The one zero after an element closes nothing. -/
theorem scanBits_gapIntra (t : SymTab) {s : State} (h : s.decZeros = 0) :
    scanBits t gapIntraBits s = setZeros 1 (endOnes s) := stepZero_of_decZeros_zero t h

/-- A rendered code closes nothing: each of its gaps is the one zero after an element (R69). -/
theorem scanBits_render_onlyCodeAndRuns (t : SymTab) (c : Code) (s : State) :
    OnlyCodeAndRuns s (scanBits t (render c) s) := by
  have hsym (x : Sym) (s : State) : OnlyCodeAndRuns s (scanBits t (symBits x) s) := by
    rw [scanBits_symBits]
    rfl
  induction c using render.induct generalizing s with
  | case1 => exact .refl s
  | case2 x => exact hsym x s
  | case3 x y c ih =>
    obtain ⟨-, hzeros⟩ := scanBits_symBits_outKept t x s
    have hgap : OnlyCodeAndRuns (scanBits t (symBits x) s) (scanBits t gapIntraBits (scanBits t (symBits x) s)) := by
      rw [scanBits_gapIntra t hzeros]
      exact (endOnes_onlyCodeAndRuns _).trans rfl
    rw [render, scanBits_append, scanBits_append]
    exact ((hsym x s).trans hgap).trans (ih _)

/-! The last symbol. -/

/-- The last element of a rendered code follows the others and a gap. -/
theorem render_append_singleton (c : Code) (x : Sym) :
    render (c ++ [x]) = (if c = [] then [] else render c ++ gapIntraBits) ++ symBits x := by
  induction c using render.induct with
  | case1 => rfl
  | case2 y => simp [render]
  | case3 y z c ih =>
    simp only [List.cons_append, render] at ih ⊢
    simp [ih]

theorem scanBits_render_decZeros (t : SymTab) {c : Code} (hc : c ≠ []) (s : State) :
    (scanBits t (render c) s).decZeros = 0 := by
  rw [← List.dropLast_append_getLast hc, render_append_singleton, scanBits_append]
  exact (scanBits_symBits_outKept t _ _).2

/-- From a state with no run of ones, the symbols before the last are appended and the last one's run is left open. -/
theorem scanBits_render_append_singleton (t : SymTab) {c : Code} (x : Sym) {s : State} (hones : s.decOnes = 0)
    (hlen : s.decCode.length + c.length ≤ 4) :
    scanBits t (render (c ++ [x])) s =
      setOnes ⟨min (symBits x).length 4, by omega⟩ (setZeros 0 { s with decCode := s.decCode ++ c }) := by
  have hopen {u : State} (hu : u.decOnes = 0) :
      scanBits t (symBits x) u = setOnes ⟨min (symBits x).length 4, by omega⟩ (setZeros 0 u) := by
    simp only [scanBits_symBits, hu, Fin.val_zero, Nat.zero_add]
  rw [render_append_singleton, scanBits_append]
  by_cases hc : c = []
  · rw [if_pos hc, scanBits_nil, hopen hones, hc, List.append_nil]
  · have hgap : scanBits t gapIntraBits (scanBits t (render c) s) =
        setZeros 1 (setOnes 0 { s with decCode := s.decCode ++ c }) := by
      rw [scanBits_gapIntra t (scanBits_render_decZeros t hc s), endOnes_scanBits_render t hc hones hlen]
      rfl
    rw [if_neg hc, scanBits_append, hgap, hopen rfl]
    rfl

/-- Settles O37: the frame and the zero counter hold from any state, the code and the open run from a fresh code. -/
theorem nibbleCodesComplete : Obligations.NibbleCodesComplete := by
  intro i v s hi
  obtain ⟨hlen, -, -, -⟩ := (SymTab.admissible_iff _).1 Config.symtab_admissible
  obtain ⟨hpos, hle⟩ := hlen v
  have hne : Config.symtab v ≠ [] := List.length_pos_iff.1 hpos
  have hexec : exec i s = .next (scanBits Config.symtab (render (Config.symtab v)) s) := by
    rw [exec_of_not_isCommand (not_isCommand_of_nibble? hi), instrBits_of_nibble? hi]
  refine ⟨_, hexec, scanBits_render_decZeros _ hne s, scanBits_render_onlyCodeAndRuns _ _ s,
    fun hones hcode hovf => ?_⟩
  have hscan := scanBits_render_append_singleton Config.symtab (c := (Config.symtab v).dropLast)
    ((Config.symtab v).getLast hne) hones (by simp only [hcode, List.length_dropLast, List.length_nil]; omega)
  rw [List.dropLast_append_getLast hne, hcode] at hscan
  rw [hscan]
  refine ⟨rfl, hovf, fun x hx => ?_⟩
  rw [← Option.some.inj ((List.getLast?_eq_some_getLast hne).symm.trans hx)]
  exact Nat.min_eq_left (by cases (Config.symtab v).getLast hne <;> decide)

end Sys2Proof.Machine
end

section
/-! PROOFS. Rendered codes and payload bytes as numbers: what a pattern's length and a frame's bytes are made of. -/

namespace Sys2Proof

/-- Ones come in odd runs, and there is one zero between two of them. -/
theorem render_length_odd {c : Code} (h : 1 ≤ c.length) : (render c).length % 2 = 1 := by
  have hlen := render_length c
  have hsum := count_dot_add_count_dash c
  omega

theorem render_defaultSymtab_length_le (v : Nibble) : (render (defaultSymtab v)).length ≤ 11 := by
  revert v
  decide

theorem msbValue_lt (f : Nat → Bool) (n : Nat) : msbValue f n < 2 ^ n := by
  induction n with
  | zero => exact Nat.one_pos
  | succ n ih =>
    have hbit := Bool.toNat_le (f n)
    rw [msbValue_succ, Nat.bit_val, Nat.pow_succ]
    omega

/-- R79's sum is a byte: it has no carry out. -/
theorem packByte_toNat (P : Bits) (q : Nat) :
    (packByte P q).toNat = ((List.range 8).map fun t => if P.getD (8 * q + t) false then 2 ^ (7 - t) else 0).sum := by
  rw [packByte_eq_msbValue, BitVec.toNat_ofNat, Nat.mod_eq_of_lt (msbValue_lt _ 8)]
  simp [msbValue, Nat.one_shiftLeft]

end Sys2Proof
end

section
/-! PROOFS. The pattern that ENCODE computes: the loop of R73 gives the grammar of R54, and how many bits it has. -/

namespace Sys2Proof.Machine

/-! The loop and the grammar (R73, R75). -/

/-- Past the first byte, every byte that the loop takes has a `G7` before it. -/
theorem encodeLoop_succ (t : SymTab) (i : Nat) (b : Byte) (bs : List Byte) (P : Bits) :
    encodeLoop t (i + 1) (b :: bs) P = P ++ gapByteBits ++ pattern t (b :: bs) := by
  induction bs generalizing i b P with
  | nil => simp [encodeLoop, encodeStep, pattern]
  | cons b' bs ih =>
    rw [encodeLoop, ih]
    simp [encodeStep, pattern]

theorem encodeLoop_eq_pattern (t : SymTab) (bs : List Byte) : encodeLoop t 0 bs [] = pattern t bs := by
  match bs with
  | [] => rfl
  | [_] => rfl
  | b :: b' :: bs =>
    rw [encodeLoop, encodeLoop_succ]
    rfl

theorem encodeWith_eq_writeFrame_pattern {p : Params} {s : State} (h : EncodeAdmitted p s) :
    encodeWith p s = .next (writeFrame (pattern p.symtab (inBytes s)) s) := by
  rw [encodeWith_of_admitted h, encodeLoop_eq_pattern]

/-- Settles O12: the machine's instruction is `encodeWith` at the machine's parameters. -/
theorem encodeComputesPattern : Obligations.EncodeComputesPattern :=
  ⟨encodeLoop_eq_pattern, fun _ _ => encodeWith_eq_writeFrame_pattern, fun _ => encodeWith_eq_writeFrame_pattern⟩

/-- Settles O18: the refusal is that of `encodeWith` at the machine's parameters. -/
theorem encodeRefusedBeyondMax : Obligations.EncodeRefusedBeyondMax :=
  ⟨Config.maxInLen_le, fun _ hlong => encodeWith_of_not_admitted (Nat.not_le.2 hlong)⟩

/-! The number of bits (R83, R84). -/

theorem bytePattern_length (t : SymTab) (b : Byte) :
    (bytePattern t b).length = (render (t (hiNibble b))).length + 3 + (render (t (loNibble b))).length := by
  have hgap : gapNibbleBits.length = 3 := rfl
  rw [bytePattern, List.length_append, List.length_append, hgap]

/-- With a `G7` counted for the last byte too, every byte of a pattern adds its own bits and 7. -/
theorem pattern_length_add_seven (t : SymTab) {bs : List Byte} (h : bs ≠ []) :
    (pattern t bs).length + 7 = (bs.map fun b => (bytePattern t b).length + 7).sum := by
  induction bs using pattern.induct with
  | case1 => exact absurd rfl h
  | case2 b => simp [pattern]
  | case3 b b' bs ih =>
    have hgap : gapByteBits.length = 7 := rfl
    rw [List.map_cons, List.sum_cons, ← ih (by simp), pattern, List.length_append, List.length_append, hgap]
    omega

/-- Settles O13: `pattern_length_add_seven` with the gaps' bits summed apart. -/
theorem patternLengthFormula : Obligations.PatternLengthFormula := by
  refine fun t => ⟨rfl, fun bs hbs => ?_⟩
  have hlen := pattern_length_add_seven t hbs
  have hpos := List.length_pos_iff.2 hbs
  simp only [List.sum_map_add, List.map_const', List.sum_replicate, smul_eq_mul, bytePattern_length] at hlen ⊢
  omega

theorem bytePattern_length_odd {t : SymTab} (ht : SymTab.admissible t = true) (b : Byte) :
    (bytePattern t b).length % 2 = 1 := by
  obtain ⟨hcode, -, -, -⟩ := (SymTab.admissible_iff t).1 ht
  have hhi := render_length_odd (hcode (hiNibble b)).1
  have hlo := render_length_odd (hcode (loNibble b)).1
  have hlen := bytePattern_length t b
  omega

theorem five_le_bytePattern_length {t : SymTab} (ht : SymTab.admissible t = true) (b : Byte) :
    5 ≤ (bytePattern t b).length := by
  obtain ⟨hcode, -, -, -⟩ := (SymTab.admissible_iff t).1 ht
  have hrender (v : Nibble) := (render_length_range (hcode v).1 (hcode v).2).1
  have hhi := hrender (hiNibble b)
  have hlo := hrender (loNibble b)
  have hlen := bytePattern_length t b
  omega

theorem bytePattern_defaultSymtab_length_le (b : Byte) : (bytePattern defaultSymtab b).length ≤ 25 := by
  have hhi := render_defaultSymtab_length_le (hiNibble b)
  have hlo := render_defaultSymtab_length_le (loNibble b)
  have hlen := bytePattern_length defaultSymtab b
  omega

/-- A bound on every encoded byte bounds the pattern. -/
theorem pattern_length_add_seven_le {t : SymTab} {m : Nat} (hbyte : ∀ b, (bytePattern t b).length ≤ m)
    {bs : List Byte} (h : bs ≠ []) : (pattern t bs).length + 7 ≤ (m + 7) * bs.length := by
  have hsum := List.sum_le_card_nsmul (bs.map fun b => (bytePattern t b).length + 7) (m + 7) (by simp [hbyte])
  rwa [← pattern_length_add_seven t h, List.length_map, smul_eq_mul, Nat.mul_comm] at hsum

theorem le_pattern_length_add_seven {t : SymTab} (ht : SymTab.admissible t = true) {bs : List Byte} (h : bs ≠ []) :
    12 * bs.length ≤ (pattern t bs).length + 7 := by
  have hsum := List.card_nsmul_le_sum (bs.map fun b => (bytePattern t b).length + 7) 12
    (by simp [five_le_bytePattern_length ht])
  rwa [← pattern_length_add_seven t h, List.length_map, smul_eq_mul, Nat.mul_comm] at hsum

theorem pattern_length_odd {t : SymTab} (ht : SymTab.admissible t = true) {bs : List Byte} (h : bs ≠ []) :
    (pattern t bs).length % 2 = 1 := by
  have heven : 2 ∣ (bs.map fun b => (bytePattern t b).length + 7).sum := by
    refine List.dvd_sum fun n hn => ?_
    obtain ⟨b, -, rfl⟩ := List.mem_map.1 hn
    have hodd := bytePattern_length_odd ht b
    omega
  rw [← pattern_length_add_seven t h] at heven
  omega

/-- Settles O14: the bounds and the parity of a pattern are those of its bytes, summed. -/
theorem patternLengthBounds : Obligations.PatternLengthBounds := by
  intro t ht
  obtain ⟨hcode, -, -, -⟩ := (SymTab.admissible_iff t).1 ht
  refine ⟨fun v => render_length_odd (hcode v).1, fun b => ?_, fun bs hbs => ?_⟩
  · exact ⟨bytePattern_length_odd ht b, five_le_bytePattern_length ht b, bytePattern_length_le ht b,
      bytePattern_defaultSymtab_length_le b⟩
  · exact ⟨pattern_length_odd ht hbs, le_pattern_length_add_seven ht hbs,
      pattern_length_add_seven_le (bytePattern_length_le ht) hbs,
      pattern_length_add_seven_le bytePattern_defaultSymtab_length_le hbs⟩

end Sys2Proof.Machine
end

section
/-! PROOFS. The result of ENCODE: the frame's bytes are in `OUT`, and the pattern's bit count fits the header. -/

namespace Sys2Proof.Machine

/-! What `OUT` holds after a frame is written (R77-R79). -/

theorem outByte_writeFrame {P : Bits} (s : State) {a : Nat} (h : a < (frameBytes P).length) :
    outByte (writeFrame P s) a = (frameBytes P)[a] := by
  have hread : Memory.read (writeFrame P s).outBuf a = some (frameBytes P)[a] := by
    rw [writeFrame_outBuf, read_writeBytes, dif_pos (by omega)]
    rfl
  rw [outByte, hread, Option.getD_some]

theorem writeFrame_outLen_toNat {P : Bits} (s : State) (h : hdrBytes + ceil8 P.length < 2 ^ 64) :
    (writeFrame P s).outLen.toNat = (frameBytes P).length := by
  rw [writeFrame_outLen, BitVec.toNat_ofNat, Nat.mod_eq_of_lt h, frameBytes_length]

/-- The result of ENCODE is the frame, header and payload (R33, R50). -/
theorem outBytes_writeFrame {P : Bits} (s : State) (h : hdrBytes + ceil8 P.length < 2 ^ 64) :
    outBytes (writeFrame P s) = frameBytes P := by
  have hlen := writeFrame_outLen_toNat s h
  refine List.ext_getElem (by rw [outBytes_length, hlen]) fun a ha ha' => ?_
  simp [outBytes, outByte_writeFrame s ha']

theorem outByte_writeFrame_header (P : Bits) (s : State) {k : Nat} (h : k < 8) :
    outByte (writeFrame P s) k = headerByte P.length k := by
  have hk : k < (frameBytes P).length := by
    rw [frameBytes_length]
    exact Nat.lt_add_right _ h
  rw [outByte_writeFrame s hk]
  simp [frameBytes, headerBytes, hdrBytes, h]

theorem outByte_writeFrame_payload {P : Bits} (s : State) {q : Nat} (h : q < ceil8 P.length) :
    outByte (writeFrame P s) (8 + q) = packByte P q := by
  have hq : 8 + q < (frameBytes P).length := by
    rw [frameBytes_length]
    exact Nat.add_lt_add_left h 8
  rw [outByte_writeFrame s hq]
  simp [frameBytes, packBits]

/-! The bit count fits (R77, R85). -/

/-- An admitted input is at most `2^58` bytes (D12), and every byte adds at most 40 bits. -/
theorem pattern_inBytes_length_le {p : Params} {s : State} (hp : p.admissible) (h : EncodeAdmitted p s) :
    (pattern p.symtab (inBytes s)).length ≤ 40 * 2 ^ 58 - 7 := by
  obtain ⟨ht, hmax⟩ := hp
  by_cases hempty : inBytes s = []
  · simp [hempty, pattern]
  · have hlen := pattern_length_add_seven_le (bytePattern_length_le ht) hempty
    have hin : s.inLen.toNat ≤ 2 ^ 58 := Nat.le_trans h hmax
    rw [inBytes_length] at hlen
    omega

theorem pattern_frame_lt {p : Params} {s : State} (hp : p.admissible) (h : EncodeAdmitted p s) :
    hdrBytes + ceil8 (pattern p.symtab (inBytes s)).length < 2 ^ 64 := by
  rw [← encodeLoop_eq_pattern]
  exact encode_frame_lt hp h

theorem exec_encode_eq_writeFrame_pattern {p : Params} {s : State} (h : EncodeAdmitted p s) (hp : p = Config.params) :
    exec .encode s = .next (writeFrame (pattern p.symtab (inBytes s)) s) := by
  subst hp
  exact encodeWith_eq_writeFrame_pattern h

/-- Settles O16: ENCODE writes the frame of the pattern, which fits `OUT_LEN`; its bytes are the header's and the
payload's. -/
theorem encodeResult : Obligations.EncodeResult := by
  intro p s hp hadm
  have hbits := pattern_inBytes_length_le hp hadm
  have hlen := writeFrame_outLen_toNat s (pattern_frame_lt hp hadm)
  rw [frameBytes_length] at hlen
  refine ⟨_, encodeWith_eq_writeFrame_pattern hadm, exec_encode_eq_writeFrame_pattern hadm, rfl, hlen, fun k hk => ?_,
    fun q hq => ?_, writeFrame_keepsInputs _ s⟩
  · rw [outByte_writeFrame_header _ s hk, headerByte_toNat (by omega)]
  · rw [outByte_writeFrame_payload s hq, packByte_toNat]

/-- Settles O17: the first 8 bytes of the result are the header of a count below `2^64`, which is read back. -/
theorem encodeHeaderHoldsBitCount : Obligations.EncodeHeaderHoldsBitCount := by
  intro p s hp hadm
  have hbits := pattern_inBytes_length_le hp hadm
  have hlt : (pattern p.symtab (inBytes s)).length < 2 ^ 64 := by omega
  have hheader : (List.range 8).map (outByte (writeFrame (pattern p.symtab (inBytes s)) s)) =
      headerBytes (pattern p.symtab (inBytes s)).length :=
    List.map_congr_left fun k hk => outByte_writeFrame_header _ s (List.mem_range.1 hk)
  refine ⟨_, encodeWith_eq_writeFrame_pattern hadm, exec_encode_eq_writeFrame_pattern hadm, ?_, hbits, hlt⟩
  rw [hheader, littleEndian_headerBytes hlt]

/-! The host's input, and the examples of the source (R61, R123). -/

theorem hostLoad_inLen_toNat {bs : List Byte} (h : bs.length < 2 ^ 64) (s : State) :
    (hostLoad bs s).inLen.toNat = bs.length := by
  rw [hostLoad, hostSetInLen_inLen, BitVec.toNat_ofNat, Nat.mod_eq_of_lt h]

/-- The bytes that the host places are ENCODE's input. -/
theorem inBytes_hostLoad {bs : List Byte} (h : bs.length < 2 ^ 64) (s : State) : inBytes (hostLoad bs s) = bs := by
  have hlen := hostLoad_inLen_toNat h s
  refine List.ext_getElem (by rw [inBytes_length, hlen]) fun k hk hk' => ?_
  have hread : Memory.read (hostLoad bs s).inBuf k = some bs[k] := by
    rw [hostLoad, hostSetInLen_inBuf, read_hostWriteBytes, dif_pos (by omega)]
    rfl
  simp [inBytes, inByte, hread]

/-- ENCODE of any bytes that the parameters admit gives the frame of their pattern. -/
theorem encodesTo_frameBytes_pattern {p : Params} (hp : p.admissible) {bs : List Byte} (h : bs.length ≤ p.maxInLen)
    (s : State) : EncodesTo p s bs (frameBytes (pattern p.symtab bs)) := by
  have hmax : p.maxInLen ≤ 2 ^ 58 := hp.2
  have hlt : bs.length < 2 ^ 64 := by omega
  have hadm : EncodeAdmitted p (hostLoad bs s) := by rwa [EncodeAdmitted, hostLoad_inLen_toNat hlt]
  have hframe := pattern_frame_lt hp hadm
  have henc := encodeWith_eq_writeFrame_pattern hadm
  rw [inBytes_hostLoad hlt] at hframe henc
  exact ⟨_, henc, rfl, outBytes_writeFrame _ hframe⟩

/-- Settles O19: the examples use only the two codes that the source gives (R67), and their frames are computed. -/
theorem encodeWorkedExamples : Obligations.EncodeWorkedExamples := by
  intro p hp hmax s
  obtain ⟨-, -, h0, hF⟩ := (SymTab.admissible_iff p.symtab).1 hp.1
  have h00 : bytePattern p.symtab 0x00 = render sourceCode0 ++ gapNibbleBits ++ render sourceCode0 :=
    congrArg₂ (fun c d => render c ++ gapNibbleBits ++ render d) h0 h0
  have hFF : bytePattern p.symtab 0xFF = render sourceCodeF ++ gapNibbleBits ++ render sourceCodeF :=
    congrArg₂ (fun c d => render c ++ gapNibbleBits ++ render d) hF hF
  have hempty : frameBytes (pattern p.symtab []) = [0, 0, 0, 0, 0, 0, 0, 0] := by
    rw [pattern]
    decide
  have hone : frameBytes (pattern p.symtab [0x00]) = [0x05, 0, 0, 0, 0, 0, 0, 0, 0x88] := by
    rw [pattern, h00]
    decide
  have htwo : frameBytes (pattern p.symtab [0xFF, 0xFF]) =
      [0x31, 0, 0, 0, 0, 0, 0, 0, 0xAB, 0x8A, 0xB8, 0x0A, 0xB8, 0xAB, 0x80] := by
    rw [pattern, pattern, hFF]
    decide
  exact ⟨hempty ▸ encodesTo_frameBytes_pattern hp (Nat.zero_le _) s,
    hone ▸ encodesTo_frameBytes_pattern hp (bs := [0x00]) (Nat.le_of_succ_le hmax) s,
    htwo ▸ encodesTo_frameBytes_pattern hp (bs := [0xFF, 0xFF]) hmax s⟩

end Sys2Proof.Machine
end

section
/-! PROOFS. The scanner's operations on its registers: the bounded code register (R95), a close (R96), a single zero
(R93) and the end of the stream (R97). -/

namespace Sys2Proof.Machine

/-! The code register (R94, R95). -/

/-- Settles O33: `classify` looks at the saturated count only. -/
theorem classifyReading : Obligations.ClassifyReading := by
  intro s
  unfold classify
  refine ⟨fun h => by simp [h], fun h => by simp [h], fun h1 h3 => ?_⟩
  split
  · rename_i h
    exact absurd (Fin.ext h) h1
  · rename_i h
    exact absurd (Fin.ext h) h3
  · rfl

/-- `s` with the registers holding what they can of the unbounded code `c`: four symbols and whether there are more. -/
def withCode (c : Code) (s : State) : State := { s with decCode := c.take 4, decOvf := decide (4 < c.length) }

theorem withCode_of_length_le {c : Code} (h : c.length ≤ 4) (s : State) :
    withCode c s = { s with decCode := c, decOvf := false } := by
  simp [withCode, List.take_of_length_le h, h]

theorem withCode_of_lt_length {c : Code} (h : 4 < c.length) (s : State) :
    withCode c s = { s with decCode := c.take 4, decOvf := true } := by
  simp [withCode, h]

/-- A fresh code register holds the empty code. -/
theorem withCode_nil {s : State} (hcode : s.decCode = []) (hovf : s.decOvf = false) : withCode [] s = s := by
  cases s
  cases hcode
  cases hovf
  rfl

theorem append_withCode (x : Sym) (c : Code) (s : State) : append x (withCode c s) = withCode (c ++ [x]) s := by
  have hlen : (withCode c s).decCode.length = min 4 c.length := List.length_take
  by_cases h : c.length < 4
  · rw [append, if_pos (by omega), withCode_of_length_le (by omega), withCode_of_length_le (by simp; omega)]
    rfl
  · have hovf : append x (withCode c s) = { s with decCode := c.take 4, decOvf := true } := if_neg (by omega)
    rw [hovf, withCode_of_lt_length (by simp; omega), List.take_append_of_le_length (by omega)]

theorem foldl_append_withCode (xs c : Code) (s : State) :
    xs.foldl (fun u x => append x u) (withCode c s) = withCode (c ++ xs) s := by
  induction xs generalizing c with
  | nil => simp
  | cons x xs ih => rw [List.foldl_cons, append_withCode, ih, List.append_assoc, List.singleton_append]

/-- No entry has more than four symbols (R65), so the overflowed code is none of them. -/
theorem resolveCode_withCode {t : SymTab} (ht : SymTab.admissible t = true) (c : Code) (s : State) :
    resolveCode t (withCode c s) = inv t c := by
  by_cases h : 4 < c.length
  · rw [withCode_of_lt_length h, inv_eq_none_of_length ht (by omega)]
    rfl
  · rw [withCode_of_length_le (by omega)]
    rfl

/-- Settles O34: `withCode` is what `Append` makes of the symbols, and it resolves like the code. -/
theorem boundedCodeResolvesLikeUnbounded : Obligations.BoundedCodeResolvesLikeUnbounded := by
  refine ⟨fun _ _ => rfl, fun xs s hcode hovf => ?_⟩
  have hfold : xs.foldl (fun u x => append x u) s = withCode xs s := by
    have := foldl_append_withCode xs [] s
    rwa [withCode_nil hcode hovf] at this
  rw [hfold]
  refine ⟨fun h => ?_, fun h => withCode_of_lt_length h s, fun t ht => resolveCode_withCode ht xs s⟩
  rw [withCode_of_length_le h, ← hovf]

/-! A close (R96). -/

theorem resolveCode_eq_ite (t : SymTab) (s : State) :
    resolveCode t s = if s.decOvf = true then none else inv t s.decCode := by
  unfold resolveCode
  cases s.decOvf <;> rfl

theorem close_of_resolveCode {t : SymTab} {s : State} {v : Option Nibble} (h : resolveCode t s = v) :
    close t s = v.elim (clearCode s) (fun n => takeNibble n (clearCode s)) := by
  rw [close, h]
  cases v <;> rfl

theorem takeNibble_of_not_held {s : State} (h : s.decHv = false) (n : Nibble) : takeNibble n s = holdNibble n s := by
  rw [takeNibble, h]

theorem takeNibble_of_held {s : State} (h : s.decHv = true) (n : Nibble) : takeNibble n s = emitByte n s := by
  rw [takeNibble, h]

/-- The count of emitted bytes goes up by one as long as it does not wrap (R7, log 10). -/
theorem bumpOutcnt_decOutcnt_toNat {s : State} (h : s.decOutcnt.toNat + 1 < 2 ^ 64) :
    (bumpOutcnt s).decOutcnt.toNat = s.decOutcnt.toNat + 1 := by
  rw [bumpOutcnt_decOutcnt, BitVec.toNat_add]
  exact Nat.mod_eq_of_lt h

/-- Settles O35: the lookup's result decides between clearing and taking the nibble, `DEC_HV` between holding and
emitting it. -/
theorem closeEffect : Obligations.CloseEffect := by
  rintro t s v hv
  have hclose := close_of_resolveCode ((resolveCode_eq_ite t s).trans hv.symm)
  refine ⟨?_, ?_, ?_⟩
  · rintro rfl
    exact hclose
  · rintro n rfl hheld
    exact hclose.trans (takeNibble_of_not_held (s := clearCode s) hheld n)
  · rintro n rfl hheld hwrap
    exact ⟨byteOfNibbles s.decHeld n, (bumpOutcnt s).decOutcnt, byteOfNibbles_toNat _ _,
      bumpOutcnt_decOutcnt_toNat hwrap, hclose.trans (takeNibble_of_held (s := clearCode s) hheld n)⟩

/-! A single zero, and the end of the stream (R93, R97). -/

@[simp] theorem closeAtThird_decZeros (t : SymTab) (s : State) : (closeAtThird t s).decZeros = s.decZeros := by
  unfold closeAtThird
  split
  · exact close_decZeros t s
  · rfl

/-- Settles O29: GAP_INTRA is `stepZero`. -/
theorem gapIntraIsOneZero : Obligations.GapIntraIsOneZero := by
  intro s
  have hzeros : (stepZero Config.symtab s).decZeros.val = min (s.decZeros.val + 1) 3 := by simp [stepZero]
  refine ⟨stepZero Config.symtab s, rfl, hzeros, ?_⟩
  change stepZero Config.symtab s =
    setZeros _ (if s.decZeros.val = 2 then close Config.symtab (endOnes s) else endOnes s)
  rw [stepZero, closeAtThird, endOnes_decZeros]
  rfl

theorem dropLoneNibble_of_held {s : State} (h : s.decHv = true) : dropLoneNibble s = clearHeld s := by
  rw [dropLoneNibble, h]

theorem dropLoneNibble_of_not_held {s : State} (h : s.decHv = false) : dropLoneNibble s = s := by
  rw [dropLoneNibble, h]

/-- The two ways a stream can end. -/
theorem endOfStream_cases (t : SymTab) (s : State) :
    ((close t (endOnes s)).decHv = true ∧ endOfStream t s = clearHeld (close t (endOnes s))) ∨
    ((close t (endOnes s)).decHv = false ∧ endOfStream t s = close t (endOnes s)) := by
  cases h : (close t (endOnes s)).decHv with
  | true => exact .inl ⟨rfl, dropLoneNibble_of_held h⟩
  | false => exact .inr ⟨rfl, dropLoneNibble_of_not_held h⟩

/-- A close keeps R24's clause: an empty slot holds 0. -/
theorem close_heldClear (t : SymTab) {s : State} (h : s.decHv = false → s.decHeld = 0#4) :
    (close t s).decHv = false → (close t s).decHeld = 0#4 := by
  rcases close_cases t s with ⟨-, hc⟩ | ⟨n, -, -, hc⟩ | ⟨n, -, -, hc⟩ <;> rw [hc]
  · exact h
  · nofun
  · exact fun _ => rfl

@[simp] theorem endOnes_decHeld (s : State) : (endOnes s).decHeld = s.decHeld := by rw [endOnes_eq]

/-- Settles O36: the registers cleared by the close stay so, and a lone nibble is dropped without a write. -/
theorem endOfStreamDropsLoneNibble : Obligations.EndOfStreamDropsLoneNibble := by
  intro t s
  refine ⟨?_, ?_, fun _ hheld => ?_, ?_, ?_, ?_, fun hv => ?_⟩
  · rintro _ rfl
    exact ⟨dropLoneNibble_of_held, dropLoneNibble_of_not_held⟩
  · rcases endOfStream_cases t s with ⟨-, h⟩ | ⟨hv, h⟩ <;> rw [h]
    · rfl
    · exact hv
  · rcases endOfStream_cases t s with ⟨-, h⟩ | ⟨hlone, h⟩ <;> rw [h]
    · rfl
    · exact close_heldClear t (fun _ => by rw [endOnes_decHeld, hheld]) hlone
  · rcases endOfStream_cases t s with ⟨-, h⟩ | ⟨-, h⟩ <;> simp [h]
  · rcases endOfStream_cases t s with ⟨-, h⟩ | ⟨-, h⟩ <;> simp [h]
  · rcases endOfStream_cases t s with ⟨-, h⟩ | ⟨-, h⟩ <;> simp [h]
  · have hclose := (close_storesOnlyHeld t (endOnes s)).notHeld (by rwa [endOnes_decHv])
    obtain ⟨hout, hcnt⟩ := ((endOnes_outKept s).trans hclose).trans (dropLoneNibble_outKept _)
    exact ⟨hout, hcnt⟩

end Sys2Proof.Machine
end

section
/-! PROOFS. The closed form of DECODE read run by run: how many nibbles it can recognize (R103), and that it gives back
the bytes of ENCODE's pattern (R101). -/

namespace Sys2Proof.Machine

/-! A bit string is its maximal runs. -/

theorem exists_first_run (b : Bool) (bs : Bits) :
    ∃ k rest, b :: bs = List.replicate (k + 1) b ++ rest ∧ rest.head? ≠ some b := by
  induction bs generalizing b with
  | nil => exact ⟨0, [], rfl, nofun⟩
  | cons c bs ih =>
    by_cases hbc : b = c
    · obtain ⟨k, rest, hsplit, hrest⟩ := ih c
      subst hbc
      exact ⟨k + 1, rest, by rw [hsplit, List.replicate_succ (n := k + 1)]; rfl, hrest⟩
    · exact ⟨0, c :: bs, rfl, fun h => hbc (Option.some.inj h).symm⟩

/-- Induction over the maximal runs of a bit string. -/
theorem runs_induction {motive : Bits → Prop} (nil : motive [])
    (run : ∀ b k rest, rest.head? ≠ some b → motive rest → motive (List.replicate (k + 1) b ++ rest)) (bits : Bits) :
    motive bits := by
  induction hlen : bits.length using Nat.strong_induction_on generalizing bits with
  | _ n ih =>
    cases bits with
    | nil => exact nil
    | cons b bs =>
      obtain ⟨k, rest, hsplit, hrest⟩ := exists_first_run b bs
      rw [hsplit] at hlen ⊢
      simp only [List.length_append, List.length_replicate] at hlen
      exact run b k rest hrest (ih rest.length (by omega) rest rfl)

theorem runs_replicate_append {b : Bool} {rest : Bits} (h : rest.head? ≠ some b) (k : Nat) :
    runs (List.replicate (k + 1) b ++ rest) = (b, k + 1) :: runs rest := by
  rw [runs_append fun c hc => by rwa [List.eq_of_mem_replicate (List.mem_of_getLast? hc)], runs_replicate]
  rfl

/-! The recognized nibbles, run by run (R99). -/

/-- The nibbles recognized in a bit string that follows an open code. -/
def recognizedFrom (t : SymTab) (bits : Bits) (code : Code) : List Nibble := (lookups t (runs bits) code).filterMap id

theorem recognized_eq (t : SymTab) (bits : Bits) : recognized t bits = recognizedFrom t bits [] := rfl

theorem filterMap_id_cons (v : Option Nibble) (vs : List (Option Nibble)) :
    (v :: vs).filterMap id = v.toList ++ vs.filterMap id := by
  cases v <;> rfl

theorem recognizedFrom_nil (t : SymTab) (code : Code) : recognizedFrom t [] code = (inv t code).toList :=
  (filterMap_id_cons _ []).trans (List.append_nil _)

theorem recognizedFrom_ones (t : SymTab) {rest : Bits} (h : rest.head? ≠ some true) (k : Nat) (code : Code) :
    recognizedFrom t (List.replicate (k + 1) true ++ rest) code = recognizedFrom t rest (readOnes (k + 1) code) := by
  rw [recognizedFrom, runs_replicate_append h]
  rfl

theorem recognizedFrom_zeros (t : SymTab) {rest : Bits} (h : rest.head? ≠ some false) (k : Nat) (code : Code) :
    recognizedFrom t (List.replicate (k + 1) false ++ rest) code =
      if 3 ≤ k + 1 then (inv t code).toList ++ recognizedFrom t rest [] else recognizedFrom t rest code := by
  rw [recognizedFrom, runs_replicate_append h, lookups]
  split
  · exact filterMap_id_cons _ _
  · rfl

/-! How many there can be (R103). -/

theorem inv_toList_length_le {t : SymTab} (ht : SymTab.admissible t = true) (code : Code) :
    (inv t code).toList.length ≤ min 1 code.length := by
  cases code with
  | nil => simp [inv_eq_none_of_length ht]
  | cons x code => cases inv t (x :: code) <;> simp

/-- A recognized nibble takes at least a one, and three zeros unless it is the last; an open code has its one. -/
theorem recognizedFrom_length_le {t : SymTab} (ht : SymTab.admissible t = true) (bits : Bits) (code : Code) :
    4 * (recognizedFrom t bits code).length ≤ bits.length + 3 + min 1 code.length := by
  induction bits using runs_induction generalizing code with
  | nil =>
    have hlast := inv_toList_length_le ht code
    rw [recognizedFrom_nil, List.length_nil]
    omega
  | run b k rest hrest ih =>
    rw [List.length_append, List.length_replicate]
    cases b with
    | true =>
      have hih := ih (readOnes (k + 1) code)
      rw [recognizedFrom_ones t hrest]
      omega
    | false =>
      have hclosed := inv_toList_length_le ht code
      have hnew := ih []
      have hopen := ih code
      rw [recognizedFrom_zeros t hrest]
      split
      · rw [List.length_append]
        simp only [List.length_nil] at hnew
        omega
      · omega

theorem recognized_length_le {t : SymTab} (ht : SymTab.admissible t = true) (bits : Bits) :
    (recognized t bits).length ≤ (bits.length + 3) / 4 := by
  have hle := recognizedFrom_length_le ht bits []
  rw [← recognized_eq, List.length_nil] at hle
  omega

theorem pairNibbles_length (vs : List Nibble) : (pairNibbles vs).length = vs.length / 2 := by
  induction vs using pairNibbles.induct with
  | case1 hi lo vs ih =>
    simp only [pairNibbles, List.length_cons, ih]
    omega
  | case2 => simp [pairNibbles]
  | case3 => rfl

theorem closedForm_length (t : SymTab) (bits : Bits) : (closedForm t bits).length = (recognized t bits).length / 2 :=
  pairNibbles_length _

/-- Two recognized nibbles make a byte. -/
theorem recognized_length_half_le {t : SymTab} (ht : SymTab.admissible t = true) (bits : Bits) :
    (recognized t bits).length / 2 ≤ (bits.length + 3) / 8 := by
  have hle := recognized_length_le ht bits
  omega

/-! ENCODE's pattern (R101). -/

theorem recognizedFrom_symBits (t : SymTab) (x : Sym) {rest : Bits} (h : rest.head? ≠ some true) (code : Code) :
    recognizedFrom t (symBits x ++ rest) code = recognizedFrom t rest (code ++ [x]) := by
  cases x with
  | dot => exact recognizedFrom_ones t h 0 code
  | dash => exact recognizedFrom_ones t h 2 code

theorem head?_render_append {c : Code} (hc : c ≠ []) (rest : Bits) : (render c ++ rest).head? = some true := by
  rw [List.head?_append, (patternShape_render hc).first]
  rfl

/-- A rendered code is read as its symbols. -/
theorem recognizedFrom_render (t : SymTab) (c : Code) {rest : Bits} (h : rest.head? ≠ some true) (code : Code) :
    recognizedFrom t (render c ++ rest) code = recognizedFrom t rest (code ++ c) := by
  induction c using render.induct generalizing code with
  | case1 => simp [render]
  | case2 x => exact recognizedFrom_symBits t x h code
  | case3 x y c ih =>
    have hhead : (render (y :: c) ++ rest).head? ≠ some false := by
      rw [head?_render_append (List.cons_ne_nil y c)]
      nofun
    have hgap := recognizedFrom_zeros t hhead 0 (code ++ [x])
    rw [if_neg (by decide), ih, List.append_assoc, List.singleton_append] at hgap
    rw [render, List.append_assoc, List.append_assoc, recognizedFrom_symBits t x (by nofun)]
    exact hgap

/-- A nibble's code and a gap of three zeros or more are read as the nibble. -/
theorem recognizedFrom_entry_gap {t : SymTab} (ht : SymTab.admissible t = true) (v : Nibble) {rest : Bits}
    (h : rest.head? ≠ some false) {k : Nat} (hk : 2 ≤ k) :
    recognizedFrom t (render (t v) ++ (List.replicate (k + 1) false ++ rest)) [] = v :: recognizedFrom t rest [] := by
  rw [recognizedFrom_render t (t v) (by simp [List.replicate_succ]), recognizedFrom_zeros t h, if_pos (by omega),
    List.nil_append, inv_entry ht v]
  rfl

/-- The code at the end of the stream needs no gap. -/
theorem recognizedFrom_entry {t : SymTab} (ht : SymTab.admissible t = true) (v : Nibble) :
    recognizedFrom t (render (t v)) [] = [v] := by
  have hread := recognizedFrom_render t (t v) (rest := []) (by nofun) []
  rw [List.append_nil, List.nil_append, recognizedFrom_nil, inv_entry ht v] at hread
  exact hread

/-- The nibbles of a byte sequence, high nibble first (R74). -/
def nibblesOf (bs : List Byte) : List Nibble := bs.flatMap fun b => [hiNibble b, loNibble b]

/-- The pattern's codes are recognized as the nibbles that were encoded (R101). -/
theorem recognized_pattern {t : SymTab} (ht : SymTab.admissible t = true) (bs : List Byte) :
    recognized t (pattern t bs) = nibblesOf bs := by
  obtain ⟨hlen, -, -, -⟩ := (SymTab.admissible_iff t).1 ht
  have hhi (b : Byte) (rest : Bits) : recognizedFrom t (bytePattern t b ++ rest) [] =
      hiNibble b :: recognizedFrom t (render (t (loNibble b)) ++ rest) [] := by
    have hlo := head?_render_append (List.length_pos_iff.1 (hlen (loNibble b)).1) rest
    rw [bytePattern, List.append_assoc, List.append_assoc]
    exact recognizedFrom_entry_gap ht _ (k := 2) (by rw [hlo]; nofun) (by decide)
  rw [recognized_eq]
  induction bs using pattern.induct with
  | case1 => rw [pattern, recognizedFrom_nil, inv_eq_none_of_length ht (by decide)]; rfl
  | case2 b =>
    have hbyte := hhi b []
    rw [List.append_nil, List.append_nil, recognizedFrom_entry ht] at hbyte
    exact hbyte
  | case3 b b' bs ih =>
    have hnext : (pattern t (b' :: bs)).head? ≠ some false := by
      rw [(patternShape_pattern ht (List.cons_ne_nil b' bs)).first]
      nofun
    have hlo := recognizedFrom_entry_gap ht (loNibble b) (k := 6) hnext (by decide)
    rw [ih] at hlo
    rw [pattern, List.append_assoc, hhi]
    exact congrArg (hiNibble b :: ·) hlo

theorem byteOfNibbles_hiNibble_loNibble (b : Byte) : byteOfNibbles (hiNibble b) (loNibble b) = b := by
  refine BitVec.eq_of_toNat_eq ?_
  rw [byteOfNibbles_toNat, hiNibble, loNibble, BitVec.extractLsb'_toNat, BitVec.extractLsb'_toNat,
    Nat.shiftRight_eq_div_pow, Nat.shiftRight_zero]
  omega

theorem pairNibbles_nibblesOf (bs : List Byte) : pairNibbles (nibblesOf bs) = bs := by
  induction bs with
  | nil => rfl
  | cons b bs ih =>
    change byteOfNibbles (hiNibble b) (loNibble b) :: pairNibbles (nibblesOf bs) = b :: bs
    rw [byteOfNibbles_hiNibble_loNibble, ih]

theorem closedForm_pattern {t : SymTab} (ht : SymTab.admissible t = true) (bs : List Byte) :
    closedForm t (pattern t bs) = bs := by
  rw [closedForm, recognized_pattern ht, pairNibbles_nibblesOf]

end Sys2Proof.Machine
end

section
/-! PROOFS. The bit-serial scanner computes the closed form (R99): it resolves the codes of the runs, and pairs and
emits the recognized nibbles. -/

namespace Sys2Proof.Machine

/-! The recognized nibbles are taken one after the other. -/

/-- The nibbles taken in order. -/
def takeNibbles (vs : List Nibble) (s : State) : State := vs.foldl (fun u v => takeNibble v u) s

theorem takeNibbles_append (vs ws : List Nibble) (s : State) :
    takeNibbles (vs ++ ws) s = takeNibbles ws (takeNibbles vs s) := List.foldl_append

@[simp] theorem takeNibble_decOnes (v : Nibble) (s : State) : (takeNibble v s).decOnes = s.decOnes := by
  unfold takeNibble
  split <;> rfl

@[simp] theorem takeNibbles_decOnes (vs : List Nibble) (s : State) : (takeNibbles vs s).decOnes = s.decOnes := by
  induction vs generalizing s with
  | nil => rfl
  | cons v vs ih => exact (ih (takeNibble v s)).trans (takeNibble_decOnes v s)

theorem takeNibble_withCode (v : Nibble) (c : Code) (s : State) :
    takeNibble v (withCode c s) = withCode c (takeNibble v s) := by
  have hheld : (withCode c s).decHv = s.decHv := rfl
  unfold takeNibble
  rw [hheld]
  cases s.decHv <;> rfl

theorem takeNibbles_withCode (vs : List Nibble) (c : Code) (s : State) :
    takeNibbles vs (withCode c s) = withCode c (takeNibbles vs s) := by
  induction vs generalizing s with
  | nil => rfl
  | cons v vs ih => exact (congrArg (takeNibbles vs) (takeNibble_withCode v c s)).trans (ih _)

/-- A close takes the code's nibble, if it has one, and leaves the empty code. -/
theorem close_withCode {t : SymTab} (ht : SymTab.admissible t = true) (c : Code) (s : State) :
    close t (withCode c s) = withCode [] (takeNibbles (inv t c).toList s) := by
  rw [close_of_resolveCode (resolveCode_withCode ht c s)]
  cases inv t c with
  | none => rfl
  | some v => exact takeNibble_withCode v [] s

/-! The end of the stream does not depend on the zero counter, and ends a run of ones as a zero would. -/

theorem dropLoneNibble_setZeros (z : Fin 4) (s : State) :
    dropLoneNibble (setZeros z s) = setZeros z (dropLoneNibble s) := by
  unfold dropLoneNibble
  rw [setZeros_decHv]
  cases s.decHv <;> rfl

theorem endOfStream_endOnes (t : SymTab) (s : State) : endOfStream t (endOnes s) = endOfStream t s := by
  rw [endOfStream, endOnes_of_zero (endOnes_decOnes s), endOfStream]

theorem endOfStream_scanBits_endOnes (t : SymTab) {rest : Bits} (h : rest.head? ≠ some true) (s : State) :
    endOfStream t (scanBits t rest (endOnes s)) = endOfStream t (scanBits t rest s) := by
  match rest, h with
  | [], _ => exact endOfStream_endOnes t s
  | false :: rest, _ =>
    have hstep : stepZero t (endOnes s) = stepZero t s := by
      rw [stepZero, endOnes_of_zero (endOnes_decOnes s), stepZero]
    rw [scanBits_cons, scanBits_cons, scanBit_false, scanBit_false, hstep]

theorem endOfStream_of_decOnes_zero (t : SymTab) {s : State} (h : s.decOnes = 0) :
    endOfStream t s = dropLoneNibble (close t s) := by
  rw [endOfStream, endOnes_of_zero h]

/-- After a run of ones the code is the one that R56 reads. -/
theorem endOnes_scanBits_ones_withCode (t : SymTab) (k : Nat) (c : Code) (z : Fin 4) {s : State} (h : s.decOnes = 0) :
    endOnes (scanBits t (List.replicate (k + 1) true) (setZeros z (withCode c s))) =
      setZeros 0 (withCode (readOnes (k + 1) c) s) := by
  have hones : (setZeros z (withCode c s)).decOnes = 0 := h
  have hread : (if k + 1 = 1 then append .dot (setZeros z (withCode c s)) else
      if k + 1 = 3 then append .dash (setZeros z (withCode c s)) else setZeros z (withCode c s)) =
        setZeros z (withCode (readOnes (k + 1) c) s) := by
    simp only [append_setZeros, append_withCode, readOnes]
    split
    · rfl
    · split <;> rfl
  have hself : setOnes 0 s = s := h ▸ setOnes_self s
  rw [endOnes_scanBits_ones t (Nat.le_add_left 1 k) hones, hread, setZeros_setZeros]
  exact congrArg (fun u => setZeros 0 (withCode (readOnes (k + 1) c) u)) hself

/-- Three zeros or more after a run of ones close its code, fewer leave it open (R57). -/
theorem scanBits_zeros_withCode {t : SymTab} (ht : SymTab.admissible t = true) (k : Nat) (c : Code) {s : State}
    (h : s.decOnes = 0) :
    scanBits t (List.replicate (k + 1) false) (setZeros 0 (withCode c s)) =
      setZeros ⟨min (k + 1) 3, by omega⟩
        (if 3 ≤ k + 1 then withCode [] (takeNibbles (inv t c).toList s) else withCode c s) := by
  have hones : (setZeros 0 (withCode c s)).decOnes = 0 := h
  rw [scanBits_zeros_of_decZeros_zero t (Nat.le_add_left 1 k) rfl, endOnes_of_zero hones, close_setZeros,
    close_withCode ht, ← apply_ite (setZeros 0), setZeros_setZeros]

/-- Scanning a bit string after an open code takes the nibbles that the runs give and drops a lone one (R99). -/
theorem endOfStream_scanBits_withCode {t : SymTab} (ht : SymTab.admissible t = true) (bits : Bits) (c : Code)
    {z : Fin 4} {s : State} (hones : s.decOnes = 0) (hz : bits.head? = some false → z = 0) :
    setZeros 0 (endOfStream t (scanBits t bits (setZeros z (withCode c s)))) =
      setZeros 0 (dropLoneNibble (withCode [] (takeNibbles (recognizedFrom t bits c) s))) := by
  induction bits using runs_induction generalizing c z s with
  | nil =>
    have hones' : (setZeros z (withCode c s)).decOnes = 0 := hones
    rw [scanBits_nil, endOfStream_of_decOnes_zero t hones', close_setZeros, close_withCode ht, dropLoneNibble_setZeros,
      setZeros_setZeros, recognizedFrom_nil]
  | run b k rest hrest ih =>
    rw [scanBits_append]
    cases b with
    | true =>
      rw [recognizedFrom_ones t hrest, ← endOfStream_scanBits_endOnes t hrest,
        endOnes_scanBits_ones_withCode t k c z hones, ih _ hones fun _ => rfl]
    | false =>
      obtain rfl := hz rfl
      rw [recognizedFrom_zeros t hrest, scanBits_zeros_withCode ht k c hones]
      split
      · rw [ih [] (by rwa [takeNibbles_decOnes]) fun h => absurd h hrest, takeNibbles_append]
      · rw [ih c hones fun h => absurd h hrest]

/-! Nibbles taken in pairs emit bytes (R96). -/

/-- The bytes emitted one after the other, each at index `DEC_OUTCNT`. -/
def emitBytes : List Byte → State → State
  | [], s => s
  | b :: bs, s => emitBytes bs (bumpOutcnt (memWrite s.decOutcnt.toNat b s))

theorem takeNibble_takeNibble {s : State} (hv : s.decHv = false) (hheld : s.decHeld = 0#4) (hi lo : Nibble) :
    takeNibble lo (takeNibble hi s) = bumpOutcnt (memWrite s.decOutcnt.toNat (byteOfNibbles hi lo) s) := by
  rw [takeNibble_of_not_held hv, takeNibble_of_held rfl]
  cases s
  cases hv
  cases hheld
  rfl

/-- From an empty slot, the pairs are emitted and a last odd nibble is dropped. -/
theorem dropLoneNibble_takeNibbles {s : State} (hv : s.decHv = false) (hheld : s.decHeld = 0#4) (vs : List Nibble) :
    dropLoneNibble (takeNibbles vs s) = emitBytes (pairNibbles vs) s := by
  induction vs using pairNibbles.induct generalizing s with
  | case1 hi lo vs ih =>
    change dropLoneNibble (takeNibbles vs (takeNibble lo (takeNibble hi s))) = _
    rw [takeNibble_takeNibble hv hheld]
    exact ih hv hheld
  | case2 v =>
    change dropLoneNibble (takeNibble v s) = s
    rw [takeNibble_of_not_held hv, dropLoneNibble_of_held rfl]
    cases s
    cases hv
    cases hheld
    rfl
  | case3 => exact dropLoneNibble_of_not_held hv

theorem emitted_decOutcnt_toNat (b : Byte) {s : State} (h : s.decOutcnt.toNat + 1 < 2 ^ 64) :
    (bumpOutcnt (memWrite s.decOutcnt.toNat b s)).decOutcnt.toNat = s.decOutcnt.toNat + 1 :=
  bumpOutcnt_decOutcnt_toNat (s := memWrite s.decOutcnt.toNat b s) h

theorem emitBytes_decOutcnt_toNat (bs : List Byte) {s : State} (h : s.decOutcnt.toNat + bs.length < 2 ^ 64) :
    (emitBytes bs s).decOutcnt.toNat = s.decOutcnt.toNat + bs.length := by
  induction bs generalizing s with
  | nil => rfl
  | cons b bs ih =>
    rw [List.length_cons] at h ⊢
    have hcnt := emitted_decOutcnt_toNat (s := s) b (by omega)
    rw [emitBytes, ih (by omega), hcnt]
    omega

theorem emitBytes_outBuf (bs : List Byte) {s : State} (h : s.decOutcnt.toNat + bs.length < 2 ^ 64) :
    (emitBytes bs s).outBuf = (writeBytes s.decOutcnt.toNat bs s).outBuf := by
  induction bs generalizing s with
  | nil => rfl
  | cons b bs ih =>
    rw [List.length_cons] at h
    have hcnt := emitted_decOutcnt_toNat (s := s) b (by omega)
    rw [emitBytes, ih (by omega), hcnt, writeBytes]
    exact writeBytes_outBuf_congr (bumpOutcnt_outBuf _) _ bs

/-! The result of a scan. -/

/-- The scan of a bit string emits the closed form's bytes. -/
theorem endOfStream_scanBits_scanInit {t : SymTab} (ht : SymTab.admissible t = true) (bits : Bits) (s : State) :
    setZeros 0 (endOfStream t (scanBits t bits (scanInit s))) =
      setZeros 0 (emitBytes (closedForm t bits) (scanInit s)) := by
  have hscan := endOfStream_scanBits_withCode ht bits [] (z := 0) (s := scanInit s) rfl fun _ => rfl
  rw [← takeNibbles_withCode, dropLoneNibble_takeNibbles rfl rfl] at hscan
  exact hscan

/-- The bytes of a scan's result, and their count, are the closed form's (R99). -/
theorem decodeScan_closedForm {t : SymTab} (ht : SymTab.admissible t = true) {bits : Bits} (s : State)
    (hbits : bits.length + 3 < 2 ^ 67) :
    (decodeScan t bits s).outLen.toNat = (recognized t bits).length / 2 ∧
      outBytes (decodeScan t bits s) = closedForm t bits := by
  have hcount := recognized_length_half_le ht bits
  have hlen := closedForm_length t bits
  have hroom : (scanInit (openOut s)).decOutcnt.toNat + (closedForm t bits).length < 2 ^ 64 := by
    rw [scanInit_decOutcnt, BitVec.toNat_ofNat]
    omega
  have hscan := endOfStream_scanBits_scanInit ht bits (openOut s)
  have hcnt : (decodeScan t bits s).outLen.toNat = (closedForm t bits).length := by
    rw [decodeScan_outLen]
    exact (congrArg (fun u => u.decOutcnt.toNat) hscan).trans
      ((emitBytes_decOutcnt_toNat _ hroom).trans (Nat.zero_add _))
  have hout : (decodeScan t bits s).outBuf = (writeBytes 0 (closedForm t bits) (openOut s)).outBuf := by
    rw [decodeScan_outBuf]
    exact (congrArg State.outBuf hscan).trans
      ((emitBytes_outBuf _ hroom).trans (writeBytes_outBuf_congr (scanInit_outBuf _) 0 _))
  refine ⟨hcnt.trans hlen, List.ext_getElem (by rw [outBytes_length, hcnt]) fun a ha ha' => ?_⟩
  have hread : Memory.read (decodeScan t bits s).outBuf a = some (closedForm t bits)[a] := by
    rw [hout, read_writeBytes, dif_pos (by omega)]
    rfl
  simp [outBytes, outByte, hread]

end Sys2Proof.Machine
end

section
/-! PROOFS. DECODE: what it reads of `IN`, its result, and ENCODE undone (R88-R90, R99-R103, R107). -/

namespace Sys2Proof.Machine

/-! The header and the scanned bits (R88-R90). -/

theorem headerValue_eq_sum (s : State) :
    headerValue s = ((List.range 8).map fun k => (inByte s k).toNat * 2 ^ (8 * k)).sum := by
  rw [headerValue, littleEndian_eq_sum, List.length_map, List.length_range]
  refine congrArg List.sum (List.map_congr_left fun k hk => ?_)
  simp [List.getD, List.mem_range.1 hk]

theorem payloadBits_getD {s : State} {j k : Nat} (h : j < k) : (payloadBits s k).getD j false = payloadBitOf s j := by
  simp [payloadBits, List.getD, h]

/-- Settles O21: `decodeWith_of_header` with the header and the bits written out. -/
theorem decodeScansTruncatedPayload : Obligations.DecodeScansTruncatedPayload := by
  refine ⟨fun s => exec_completes_of_ne_encode (by nofun) s, ?_⟩
  rintro s hlen _ rfl
  rw [← headerValue_eq_sum]
  exact ⟨payloadBits s (scanCount (headerValue s) s), payloadBits_length _ _, fun j hj => payloadBits_getD hj,
    decodeWith_of_header hlen, rfl⟩

/-- `IN_LEN` is a 64-bit register, so the payload has fewer than `2^67` bits even without its last three. -/
theorem scanCount_lt (n : Nat) (s : State) : scanCount n s + 3 < 2 ^ 67 := by
  have hle := scanCount_le n s
  have hlt := s.inLen.isLt
  simp only [hdrBytes] at hle
  omega

/-! The result (R99, R103). -/

/-- DECODE's result is the closed form of the scanned bits. -/
theorem decodeScan_payloadBits {t : SymTab} (ht : SymTab.admissible t = true) (s : State) (n : Nat) :
    (decodeScan t (payloadBits s (scanCount n s)) s).outLen.toNat =
        (recognized t (payloadBits s (scanCount n s))).length / 2 ∧
      outBytes (decodeScan t (payloadBits s (scanCount n s)) s) = closedForm t (payloadBits s (scanCount n s)) :=
  decodeScan_closedForm ht s (by rw [payloadBits_length]; exact scanCount_lt n s)

/-- Settles O22: `decodeScan_closedForm`; the scanned bits are few enough. -/
theorem decodeIsClosedForm : Obligations.DecodeIsClosedForm := by
  intro s hlen
  obtain ⟨hcount, hbytes⟩ := decodeScan_payloadBits Config.symtab_admissible s (headerValue s)
  exact ⟨_, decodeWith_of_header hlen, rfl, hcount, hbytes, decodeScan_keepsInputs _ _ s⟩

/-- Settles O23: the bounds are those of `recognized_length_le` and `recognized_length_half_le` on the scanned bits. -/
theorem decodeOutputBound : Obligations.DecodeOutputBound := by
  intro s hlen M hM
  have hscan : M = scanCount (headerValue s) s := hM
  have hnibbles := recognized_length_le Config.symtab_admissible (payloadBits s M)
  have hhalf := recognized_length_half_le Config.symtab_admissible (payloadBits s M)
  obtain ⟨hcount, -⟩ := decodeScan_payloadBits Config.symtab_admissible s (headerValue s)
  rw [payloadBits_length] at hnibbles hhalf
  rw [← hscan] at hcount
  refine ⟨hnibbles, _, decodeWith_of_header hlen, ?_⟩
  rw [← hscan]
  exact ⟨hcount, hcount.trans_le hhalf⟩

/-! What the result does not depend on (R102, R107). -/

/-- DECODE's result depends only on the scanned bits. -/
theorem decode_sameResult {s s' t : State} (hlen : 8 ≤ s.inLen.toNat) (hlen' : 8 ≤ s'.inLen.toNat)
    (hbits : payloadBits s (scanCount (headerValue s) s) = payloadBits s' (scanCount (headerValue s') s'))
    (hexec : exec .decode s = .next t) : ∃ t', exec .decode s' = .next t' ∧ SameResult t t' := by
  refine ⟨_, decodeWith_of_header hlen', ?_⟩
  have hlists := command_listsExactly rfl hexec
  obtain rfl := Host.Outcome.next.inj ((decodeWith_of_header hlen).symm.trans hexec)
  rw [← hbits]
  exact (decodeScan_sameOutput _ _ s s').sameResult fun a => (hlists a).2

/-- With a whole payload present, all `N` bits are scanned (R89, R90). -/
theorem scanCount_of_whole_payload {n : Nat} {s : State} (h : 8 + (n + 7) / 8 ≤ s.inLen.toNat) : scanCount n s = n := by
  refine Nat.min_eq_left ?_
  simp only [availableBits, hdrBytes]
  omega

/-- Settles O24: `decode_sameResult`; where the payload is whole, the scanned bits are its first `N`. -/
theorem decodeIgnoresPaddingAndSurplus : Obligations.DecodeIgnoresPaddingAndSurplus := by
  refine ⟨fun s s' t => decode_sameResult, fun s s' t n hn hn' hlen hlen' hbits => ?_⟩
  refine decode_sameResult (by omega) (by omega) ?_
  rwa [hn, hn', scanCount_of_whole_payload hlen, scanCount_of_whole_payload hlen']

/-- A second close finds the empty code, which is no entry. -/
theorem close_close {t : SymTab} (ht : SymTab.admissible t = true) (s : State) : close t (close t s) = close t s := by
  have hempty : withCode [] (close t s) = close t s := withCode_nil (close_decCode t s) (close_decOvf t s)
  have hclose := close_withCode ht [] (close t s)
  rw [hempty, inv_eq_none_of_length ht (by decide)] at hclose
  exact hclose.trans hempty

/-- Zeros at the end of a stream do at most what its end does in any case: end the run of ones and close the code. -/
theorem endOfStream_scanBits_zeros {t : SymTab} (ht : SymTab.admissible t = true) (k : Nat) (s : State) :
    setZeros 0 (endOfStream t (scanBits t (List.replicate k false) s)) = setZeros 0 (endOfStream t s) := by
  cases k with
  | zero => rfl
  | succ k =>
    rw [scanBits_zeros_endOnes, scanBits_zeros t _ (endOnes_decOnes s), endOfStream_of_decOnes_zero]
    · rw [close_setZeros, dropLoneNibble_setZeros, setZeros_setZeros, endOfStream]
      split
      · rw [close_close ht]
      · rfl
    · split <;> simp

/-- Settles O26: the two scans end alike but for the zero counter, which is no part of the result. -/
theorem trailingZerosDoNotMatter : Obligations.TrailingZerosDoNotMatter := by
  intro t bits k s ht
  have hend := endOfStream_scanBits_zeros ht k (scanBits t bits (scanInit (openOut s)))
  rw [← scanBits_append] at hend
  have hbytes (u : State) : outBytes (finishDecode (setZeros 0 u)) = outBytes (finishDecode u) := rfl
  rw [decodeScan, decodeScan, ← hbytes, hend, hbytes]

/-! ENCODE undone (R101). -/

theorem inByte_of_inBytes {s : State} {bs : List Byte} (h : inBytes s = bs) {a : Nat} (ha : a < bs.length) :
    inByte s a = bs[a] := by
  subst h
  simp [inBytes]

section
variable {s : State} {P : Bits} (h : inBytes s = frameBytes P)
include h

theorem inLen_of_frameBytes : s.inLen.toNat = hdrBytes + ceil8 P.length := by
  rw [← inBytes_length, h, frameBytes_length]

/-- The header of a frame is read back. -/
theorem headerValue_of_frameBytes (hP : P.length < 2 ^ 64) : headerValue s = P.length := by
  have hheader : (List.range hdrBytes).map (inByte s) = headerBytes P.length := by
    refine List.map_congr_left fun k hk => ?_
    have hk8 := List.mem_range.1 hk
    rw [inByte_of_inBytes h (by rw [frameBytes_length]; omega)]
    simp [frameBytes, headerBytes, hk8]
  rw [headerValue, hheader, littleEndian_headerBytes hP]

/-- The payload of a frame is read back. -/
theorem payloadBits_of_frameBytes : payloadBits s P.length = P := by
  refine List.ext_getElem (payloadBits_length _ _) fun j hj hj' => ?_
  have hq := div_lt_ceil8 (lt_eight_mul_ceil8 hj')
  have hbyte : inByte s (hdrBytes + j / 8) = packByte P (j / 8) := by
    rw [inByte_of_inBytes h (by rw [frameBytes_length]; omega)]
    simp [frameBytes, packBits, headerBytes]
  have hbit : payloadBitOf s j = P[j] := by
    rw [payloadBitOf, hbyte, payloadBit_packByte, List.getD_eq_getElem _ _ hj']
  simpa [payloadBits] using hbit

/-- DECODE of a frame scans exactly its bits. -/
theorem decodeWith_of_frameBytes (t : SymTab) (hP : P.length < 2 ^ 64) :
    decodeWith t s = .next (decodeScan t P s) := by
  have hlen := inLen_of_frameBytes h
  have hscan : scanCount P.length s = P.length := scanCount_of_whole_payload (Nat.le_of_eq hlen.symm)
  rw [decodeWith_of_header (by omega), headerValue_of_frameBytes h hP, hscan, payloadBits_of_frameBytes h]

end

/-- Whatever ENCODE makes of its input, DECODE of a state with that result as its input gives the input back. -/
theorem decodeWith_of_encodeWith {p : Params} (hp : p.admissible) {s s' t : State} (henc : encodeWith p s = .next t)
    (hin : inBytes s' = outBytes t) :
    ∃ u, decodeWith p.symtab s' = .next u ∧ u.status = 0#1 ∧ outBytes u = inBytes s := by
  obtain ⟨hadm, rfl⟩ := encodeWith_eq_next_iff.1 henc
  have hbits := pattern_inBytes_length_le hp hadm
  rw [encodeLoop_eq_pattern, outBytes_writeFrame _ (pattern_frame_lt hp hadm)] at hin
  obtain ⟨-, hbytes⟩ := decodeScan_closedForm hp.1 (bits := pattern p.symtab (inBytes s)) s' (by omega)
  exact ⟨_, decodeWith_of_frameBytes hin p.symtab (by omega), rfl, hbytes.trans (closedForm_pattern hp.1 _)⟩

/-- An issued command runs from the start of a command (R15, R122). -/
theorem hostAct_issue (op : BitVec 1) (s : State) :
    hostAct (.issue op) s = exec (decodeOp op) (beginCommand (writeCmd op s)) := step_of_pending rfl

theorem runHost_cons_of_next {a : HostAction} {s t : State} (h : hostAct a s = .next t) (as : List HostAction) :
    runHost (a :: as) s = runHost as t := by
  rw [runHost, h]

/-- Settles O25: `decodeWith_of_encodeWith`, as the start of a command and `IN <- OUT` keep the bytes. -/
theorem encodeDecodeRoundTrip : Obligations.EncodeDecodeRoundTrip := by
  have hload {n : Nat} (hn : n ≤ 2 ^ 58) {bs : List Byte} (hbs : bs.length ≤ n) (s : State) :
      inBytes (hostLoad bs s) = bs ∧ (hostLoad bs s).inLen.toNat ≤ n := by
    have hlt : bs.length < 2 ^ 64 := by omega
    exact ⟨inBytes_hostLoad hlt s, by rwa [hostLoad_inLen_toNat hlt]⟩
  refine ⟨fun p hp bs s hbs => ?_, fun bs s hbs => ?_⟩
  · obtain ⟨hin, hadm⟩ := hload hp.2 hbs s
    have henc := encodeWith_of_admitted hadm
    obtain ⟨u, hdec, hstatus, hbytes⟩ := decodeWith_of_encodeWith hp henc (inBytes_hostCopyOutToIn _)
    exact ⟨_, u, henc, hdec, hstatus, hbytes.trans hin⟩
  · obtain ⟨hin, hadm⟩ := hload Config.maxInLen_le hbs s
    obtain ⟨t, henc⟩ : Completes (encodeWith Config.params (beginCommand (writeCmd 0#1 (hostLoad bs s)))) :=
      ⟨_, encodeWith_of_admitted hadm⟩
    obtain ⟨u, hdec, hstatus, hbytes⟩ := decodeWith_of_encodeWith
      (s' := beginCommand (writeCmd 1#1 (hostCopyOutToIn t))) Config.params_admissible henc (inBytes_hostCopyOutToIn t)
    refine ⟨u, ?_, hstatus, hbytes.trans hin⟩
    rw [runHost_cons_of_next ((hostAct_issue 0#1 _).trans henc), runHost_cons_of_next rfl,
      runHost_cons_of_next ((hostAct_issue 1#1 _).trans hdec), runHost]

end Sys2Proof.Machine
end

section
/-! PROOFS. The failing DECODE and the idle instance (R106, R112, R119). -/

namespace Sys2Proof.Machine

/-- Settles O20: `decodeWith_of_short` makes the result the failure's; the two frame lemmas of `raiseTruncatedHeader`
say what stays. -/
theorem decodeTruncatedHeader : Obligations.DecodeTruncatedHeader := by
  intro s hshort
  exact ⟨raiseTruncatedHeader s, decodeWith_of_short hshort, raiseTruncatedHeader_status s,
    raiseTruncatedHeader_outLen s, raiseTruncatedHeader_outBuf s, raiseTruncatedHeader_keepsInputs s,
    raiseTruncatedHeader_keepsScanner s⟩

/-- Settles O49: with no command pending, a step takes its idle branch. -/
theorem idleInstanceKeepsItsState : Obligations.IdleInstanceKeepsItsState :=
  fun _ => step_of_not_pending

end Sys2Proof.Machine
end
